-- ==== Sys2Proof/Word.lean ====
section
/-! DEFINITION. The word types of the block (00_scope.md R9, R10): bytes, 16-bit and 32-bit words, bit 0 the least
significant. -/

namespace Sys2Proof

/-- A byte: a `u8`, or the bits of an `i8` (R9, R10). -/
abbrev Byte := BitVec 8

/-- A 16-bit word: a `u16` (R10). -/
abbrev Word16 := BitVec 16

/-- A 32-bit word: a `u32`, or the bits of an `i32` or of an `f32` (R10). -/
abbrev Word32 := BitVec 32

end Sys2Proof
end

