-- ==== Sys2Proof/Machine/Opcodes.lean ====
section
/-! DEFINITION. The request opcode map (30_encoding.md R84, R85). -/

namespace Sys2Proof

/-- opcode byte of `SET_ADDRESS` (R84) -/
abbrev opSetAddress : Byte := 0x01
/-- opcode byte of `DRIVE_M1` (R84) -/
abbrev opDriveM1 : Byte := 0x10
/-- opcode byte of `DRIVE_M2` (R84) -/
abbrev opDriveM2 : Byte := 0x11
/-- opcode byte of `DRIVE_MIXED` (R84) -/
abbrev opDriveMixed : Byte := 0x12
/-- opcode byte of `TURN_MIXED` (R84) -/
abbrev opTurnMixed : Byte := 0x13
/-- opcode byte of `SET_MIN_VOLTAGE` (R84) -/
abbrev opSetMinVoltage : Byte := 0x20
/-- opcode byte of `SET_MAX_VOLTAGE` (R84) -/
abbrev opSetMaxVoltage : Byte := 0x21
/-- opcode byte of `SET_SERIAL_TIMEOUT` (R84) -/
abbrev opSetSerialTimeout : Byte := 0x22
/-- opcode byte of `SET_BAUD_RATE` (R84) -/
abbrev opSetBaudRate : Byte := 0x23
/-- opcode byte of `SET_RAMPING` (R84) -/
abbrev opSetRamping : Byte := 0x24
/-- opcode byte of `SET_DEADBAND` (R84) -/
abbrev opSetDeadband : Byte := 0x25
/-- opcode byte of `CHECKSUM` (R84) -/
abbrev opChecksum : Byte := 0x30
/-- opcode byte of `MAP_RANGE_I` (R84) -/
abbrev opMapRangeI : Byte := 0x31
/-- opcode byte of `MAP_RANGE_F` (R84) -/
abbrev opMapRangeF : Byte := 0x32
/-- opcode byte of `RATIO_TO_VALUE` (R84) -/
abbrev opRatioToValue : Byte := 0x33
/-- opcode byte of `VALUE_TO_RATIO` (R84) -/
abbrev opValueToRatio : Byte := 0x34

/-- The 16 assigned opcode bytes (R84); every other byte is unassigned (R85). -/
abbrev assignedOpcodes : List Byte :=
  [opSetAddress, opDriveM1, opDriveM2, opDriveMixed, opTurnMixed, opSetMinVoltage, opSetMaxVoltage,
   opSetSerialTimeout, opSetBaudRate, opSetRamping, opSetDeadband, opChecksum, opMapRangeI, opMapRangeF,
   opRatioToValue, opValueToRatio]

end Sys2Proof
end

