-- ==== Sys2Proof/Machine/Operands.lean ====
section
/-! DEFINITION. Operand assembly and payload layout: the byte order of 20_memory.md R62, and how an operand's bits are read
(30_encoding.md R82, 00_scope.md R10). -/

namespace Sys2Proof.Machine

/-- A `u16` operand: the byte that arrives first is bits 7..0 (R62, R82). -/
def le16 (q0 q1 : Byte) : Word16 := q1 ++ q0

/-- A 32-bit operand, little-endian (R62, R82). -/
def le32 (q0 q1 q2 q3 : Byte) : Word32 := q3 ++ q2 ++ q1 ++ q0

/-- The two bytes of a `u16`, first the low one (R62). -/
def bytes16 (v : Word16) : List Byte := [v.extractLsb' 0 8, v.extractLsb' 8 8]

/-- The four bytes of a 32-bit operand or payload, first the low one (R62). -/
def bytes32 (v : Word32) : List Byte :=
  [v.extractLsb' 0 8, v.extractLsb' 8 8, v.extractLsb' 16 8, v.extractLsb' 24 8]

/-- A `u8` operand widened to `Z` (R10). -/
def u8 (b : Byte) : Int := b.toNat

/-- An `i8` operand widened to `Z`: two's complement (R10, R82). -/
def i8 (b : Byte) : Int := b.toInt

/-- A `u16` operand widened to `Z` (R10). -/
def u16 (w : Word16) : Int := w.toNat

/-- An `i32` operand widened to `Z`: two's complement (R10, R82). -/
def i32 (w : Word32) : Int := w.toInt

/-- A value of `Z` that the rule says fits, narrowed to a byte field (R10). -/
def toByte (z : Int) : Byte := BitVec.ofInt 8 z

/-- A value of `Z` that the rule says fits, narrowed to an `i32` payload (R10). -/
def toI32 (z : Int) : Word32 := BitVec.ofInt 32 z

/-- Whether a value of `Z` is an `i32` (R121). -/
def fitsI32 (z : Int) : Bool := decide (-2 ^ 31 ≤ z ∧ z ≤ 2 ^ 31 - 1)

end Sys2Proof.Machine
end

