-- ==== Sys2Proof/Syntax.lean ====
section
/-! DEFINITION. The request operations of spec/opcode_table.json, one constructor each (30_encoding.md R84, R85). Operands
are the bits the request carries; the operation's rule says how they are read. -/

namespace Sys2Proof

/-- One request operation with its operands (00_scope.md R3, 30_encoding.md R84). The 13 UNASSIGNED rows of the table are
the one operation of 43_motor_commands.md R215 (log 16). -/
inductive Instr where
  /-- `SET_ADDRESS a`, `a : u8` (R171) -/
  | setAddress (a : Byte)
  /-- `DRIVE_M1 a`, `a : i8` (R201) -/
  | driveM1 (a : Byte)
  /-- `DRIVE_M2 a`, `a : i8` (R202) -/
  | driveM2 (a : Byte)
  /-- `DRIVE_MIXED a`, `a : i8` (R203) -/
  | driveMixed (a : Byte)
  /-- `TURN_MIXED a`, `a : i8` (R204) -/
  | turnMixed (a : Byte)
  /-- `SET_MIN_VOLTAGE a`, `a : u8` (R172) -/
  | setMinVoltage (a : Byte)
  /-- `SET_MAX_VOLTAGE a`, `a : u8` (R173) -/
  | setMaxVoltage (a : Byte)
  /-- `SET_SERIAL_TIMEOUT a`, `a : u16` milliseconds (R174) -/
  | setSerialTimeout (a : Word16)
  /-- `SET_BAUD_RATE a`, `a : u32` bits per second (R176) -/
  | setBaudRate (a : Word32)
  /-- `SET_RAMPING a`, `a : u8` (R177) -/
  | setRamping (a : Byte)
  /-- `SET_DEADBAND a`, `a : u8` (R178) -/
  | setDeadband (a : Byte)
  /-- `CHECKSUM n, d_0 .. d_(n-1)`; the count `n` is the length of the list (R151, R88, log 19) -/
  | checksum (data : List Byte)
  /-- `MAP_RANGE_I fl, fh, tl, th, v`, each an `i32` (R121) -/
  | mapRangeI (fl fh tl th v : Word32)
  /-- `MAP_RANGE_F fl, fh, tl, th, v`, each an `f32` bit pattern (R126) -/
  | mapRangeF (fl fh tl th v : Word32)
  /-- `RATIO_TO_VALUE a`, `a` an `f32` bit pattern (R130) -/
  | ratioToValue (a : Word32)
  /-- `VALUE_TO_RATIO a`, `a : i32` (R135) -/
  | valueToRatio (a : Word32)
  /-- any of the 240 opcode bytes of R85, which is the whole request (R215) -/
  | unassigned (op : Byte)
  deriving DecidableEq, Repr

end Sys2Proof
end

