-- ==== Sys2Proof/Machine/Params.lean ====
section
/-! DEFINITION. The implementation parameters the spec fixes (00_scope.md R8), and the command codes of
30_encoding.md R100. -/

namespace Sys2Proof.Machine

/-- `CK_MASK` (R8). -/
def ckMask : Nat := 0x7F

/-- `CK_MAX_LEN`, the longest byte sequence of one `CHECKSUM` request (R8). -/
def ckMaxLen : Nat := 65535

/-- `RATIO_MIN` (R8). -/
def ratioMin : Int := -2047

/-- `RATIO_MAX` (R8). -/
def ratioMax : Int := 2047

/-- `TIMEOUT_MAX_MS` (R8). -/
def timeoutMaxMs : Nat := 12700

/-- `BAUD_TABLE`: the accepted baud rates and their data codes (R8, 42_config_commands.md R176). -/
def baudTable : List (Word32 × Byte) :=
  [(2400, 1), (9600, 2), (19200, 3), (38400, 4), (115200, 5)]

/-- drive-m1-fwd (R100) -/
def codeM1Fwd : Byte := 0
/-- drive-m1-rev (R100) -/
def codeM1Rev : Byte := 1
/-- min-voltage (R100). UNVERIFIED, unsafe: the spec itself has it from general knowledge (G1, log 12). -/
def codeMinVoltage : Byte := 2
/-- max-voltage (R100). UNVERIFIED, unsafe: the spec itself has it from general knowledge (G1, log 12). -/
def codeMaxVoltage : Byte := 3
/-- drive-m2-fwd (R100) -/
def codeM2Fwd : Byte := 4
/-- drive-m2-rev (R100) -/
def codeM2Rev : Byte := 5
/-- mixed-drive-fwd (R100) -/
def codeMixedDriveFwd : Byte := 8
/-- mixed-drive-rev (R100) -/
def codeMixedDriveRev : Byte := 9
/-- mixed-turn-fwd (R100) -/
def codeMixedTurnFwd : Byte := 10
/-- mixed-turn-rev (R100) -/
def codeMixedTurnRev : Byte := 11
/-- serial-timeout (R100) -/
def codeSerialTimeout : Byte := 14
/-- baud-rate (R100) -/
def codeBaudRate : Byte := 15
/-- ramping (R100) -/
def codeRamping : Byte := 16
/-- deadband (R100) -/
def codeDeadband : Byte := 17

end Sys2Proof.Machine
end

