-- ==== Sys2Proof/WellFormed.lean ====
section
/-! DEFINITION. Which terms of `Instr` are requests the spec has: a checksum of at most `CK_MAX_LEN` bytes, and an
unassigned request only for an unassigned opcode byte. Every other operand value is legal (30_encoding.md R83). -/

namespace Sys2Proof

/-- The well-formedness check (R83, R85, R151). -/
def Instr.wellFormed : Instr → Bool
  | .setAddress _ => true
  | .driveM1 _ => true
  | .driveM2 _ => true
  | .driveMixed _ => true
  | .turnMixed _ => true
  | .setMinVoltage _ => true
  | .setMaxVoltage _ => true
  | .setSerialTimeout _ => true
  | .setBaudRate _ => true
  | .setRamping _ => true
  | .setDeadband _ => true
  | .checksum data => decide (data.length ≤ Machine.ckMaxLen)
  | .mapRangeI _ _ _ _ _ => true
  | .mapRangeF _ _ _ _ _ => true
  | .ratioToValue _ => true
  | .valueToRatio _ => true
  | .unassigned op => decide (op ∉ assignedOpcodes)

end Sys2Proof
end

