-- ==== Sys2Proof/Decode.lean ====
section
/-! DEFINITION. Decoding a request from the bytes of the request port, and encoding one (30_encoding.md R80 to R87). No
operand value is refused (R83) and every opcode byte begins a request (R84, R85), so the decoder turns bytes away only when
they are not yet a whole request. -/

namespace Sys2Proof

/-- Why some bytes are not a request. -/
inductive DecodeError where
  /-- there is no opcode byte -/
  | noOpcode
  /-- the opcode requires more operand bytes than there are (R87) -/
  | truncated
  deriving DecidableEq, Repr

/-- Format `RQ8`: one operand byte (R81). -/
def decodeRQ8 (mk : Byte → Instr) : List Byte → Except DecodeError (Instr × List Byte)
  | a :: r => .ok (mk a, r)
  | [] => .error .truncated

/-- Format `RQ16`: a `u16` (R81). -/
def decodeRQ16 (mk : Word16 → Instr) : List Byte → Except DecodeError (Instr × List Byte)
  | a0 :: a1 :: r => .ok (mk (Machine.le16 a0 a1), r)
  | _ => .error .truncated

/-- Format `RQ32`: one 32-bit operand (R81). -/
def decodeRQ32 (mk : Word32 → Instr) : List Byte → Except DecodeError (Instr × List Byte)
  | a0 :: a1 :: a2 :: a3 :: r => .ok (mk (Machine.le32 a0 a1 a2 a3), r)
  | _ => .error .truncated

/-- Format `RQ5X32`: five 32-bit operands (R81). -/
def decodeRQ5X32 (mk : Word32 → Word32 → Word32 → Word32 → Word32 → Instr) :
    List Byte → Except DecodeError (Instr × List Byte)
  | a0 :: a1 :: a2 :: a3 :: b0 :: b1 :: b2 :: b3 :: c0 :: c1 :: c2 :: c3 :: d0 :: d1 :: d2 :: d3 ::
      e0 :: e1 :: e2 :: e3 :: r =>
    .ok (mk (Machine.le32 a0 a1 a2 a3) (Machine.le32 b0 b1 b2 b3) (Machine.le32 c0 c1 c2 c3)
      (Machine.le32 d0 d1 d2 d3) (Machine.le32 e0 e1 e2 e3), r)
  | _ => .error .truncated

/-- Format `RQV`: a `u16` count and that many data bytes (R81, R87). -/
def decodeRQV (mk : List Byte → Instr) : List Byte → Except DecodeError (Instr × List Byte)
  | n0 :: n1 :: r =>
    if (Machine.le16 n0 n1).toNat ≤ r.length then
      .ok (mk (r.take (Machine.le16 n0 n1).toNat), r.drop (Machine.le16 n0 n1).toNat)
    else .error .truncated
  | _ => .error .truncated

/-- The operand bytes `q` of the opcode byte `op`, decoded by the opcode map (R84); an unassigned opcode is the whole
request (R85). Answers the request and the bytes after it. -/
def decodeOperands (op : Byte) (q : List Byte) : Except DecodeError (Instr × List Byte) :=
  if op = opSetAddress then decodeRQ8 .setAddress q
  else if op = opDriveM1 then decodeRQ8 .driveM1 q
  else if op = opDriveM2 then decodeRQ8 .driveM2 q
  else if op = opDriveMixed then decodeRQ8 .driveMixed q
  else if op = opTurnMixed then decodeRQ8 .turnMixed q
  else if op = opSetMinVoltage then decodeRQ8 .setMinVoltage q
  else if op = opSetMaxVoltage then decodeRQ8 .setMaxVoltage q
  else if op = opSetSerialTimeout then decodeRQ16 .setSerialTimeout q
  else if op = opSetBaudRate then decodeRQ32 .setBaudRate q
  else if op = opSetRamping then decodeRQ8 .setRamping q
  else if op = opSetDeadband then decodeRQ8 .setDeadband q
  else if op = opChecksum then decodeRQV .checksum q
  else if op = opMapRangeI then decodeRQ5X32 .mapRangeI q
  else if op = opMapRangeF then decodeRQ5X32 .mapRangeF q
  else if op = opRatioToValue then decodeRQ32 .ratioToValue q
  else if op = opValueToRatio then decodeRQ32 .valueToRatio q
  else .ok (.unassigned op, q)

/-- Decode the request at the head of a byte sequence: the opcode byte, then its operands (R80). -/
def decode : List Byte → Except DecodeError (Instr × List Byte)
  | [] => .error .noOpcode
  | op :: q => decodeOperands op q

/-- The opcode byte of a request (R84). -/
def Instr.opcode : Instr → Byte
  | .setAddress _ => opSetAddress
  | .driveM1 _ => opDriveM1
  | .driveM2 _ => opDriveM2
  | .driveMixed _ => opDriveMixed
  | .turnMixed _ => opTurnMixed
  | .setMinVoltage _ => opSetMinVoltage
  | .setMaxVoltage _ => opSetMaxVoltage
  | .setSerialTimeout _ => opSetSerialTimeout
  | .setBaudRate _ => opSetBaudRate
  | .setRamping _ => opSetRamping
  | .setDeadband _ => opSetDeadband
  | .checksum _ => opChecksum
  | .mapRangeI _ _ _ _ _ => opMapRangeI
  | .mapRangeF _ _ _ _ _ => opMapRangeF
  | .ratioToValue _ => opRatioToValue
  | .valueToRatio _ => opValueToRatio
  | .unassigned op => op

/-- The operand bytes of a request, in arrival order (R81, R62). -/
def Instr.operandBytes : Instr → List Byte
  | .setAddress a => [a]
  | .driveM1 a => [a]
  | .driveM2 a => [a]
  | .driveMixed a => [a]
  | .turnMixed a => [a]
  | .setMinVoltage a => [a]
  | .setMaxVoltage a => [a]
  | .setSerialTimeout a => Machine.bytes16 a
  | .setBaudRate a => Machine.bytes32 a
  | .setRamping a => [a]
  | .setDeadband a => [a]
  | .checksum data => Machine.bytes16 (BitVec.ofNat 16 data.length) ++ data
  | .mapRangeI fl fh tl th v =>
    Machine.bytes32 fl ++ Machine.bytes32 fh ++ Machine.bytes32 tl ++ Machine.bytes32 th ++ Machine.bytes32 v
  | .mapRangeF fl fh tl th v =>
    Machine.bytes32 fl ++ Machine.bytes32 fh ++ Machine.bytes32 tl ++ Machine.bytes32 th ++ Machine.bytes32 v
  | .ratioToValue a => Machine.bytes32 a
  | .valueToRatio a => Machine.bytes32 a
  | .unassigned _ => []

/-- The bytes of a request: the opcode byte, then the operand bytes (R80). -/
def encode (i : Instr) : List Byte := i.opcode :: i.operandBytes

/-- The length in bytes of a request with opcode byte `op` and, for `CHECKSUM` alone, the count `n` (R87). -/
def requestLength (op : Byte) (n : Nat) : Nat :=
  if op ∈ [opSetSerialTimeout] then 3
  else if op ∈ [opSetBaudRate, opRatioToValue, opValueToRatio] then 5
  else if op ∈ [opMapRangeI, opMapRangeF] then 21
  else if op ∈ [opChecksum] then 3 + n
  else if op ∈ assignedOpcodes then 2
  else 1

/-- Byte `k` of the number `w`: bits 8k+7 to 8k (R80). -/
def byteOfNumber (w k : Nat) : Byte := BitVec.ofNat 8 (w / 2 ^ (8 * k))

/-- The bytes of the request whose first `nbits` bits are those of `w` and whose other bits are zero (R80, R87). -/
def tableRequest (nbits w : Nat) : List Byte :=
  let w' := w % 2 ^ nbits
  let n := (Machine.le16 (byteOfNumber w' 1) (byteOfNumber w' 2)).toNat
  (List.range (requestLength (byteOfNumber w' 0) n)).map (byteOfNumber w')

/-- The request the decoder reads from the bits of a row of spec/opcode_table.json. -/
def decodeTableWord (nbits w : Nat) : Option Instr :=
  match decode (tableRequest nbits w) with
  | .ok (i, _) => some i
  | .error _ => none

end Sys2Proof
end

