-- ==== Sys2Proof/Machine/Flags.lean ====
section
/-! DEFINITION. The block keeps no flags and no condition codes (10_state.md R34); the outcome of a request is the status
byte of its response (60_exceptions.md R230), given here. -/

namespace Sys2Proof.Machine

/-- The closed set of outcomes of a request (R230). -/
inductive Status where
  /-- the request completed (R231) -/
  | ok
  /-- a transport operation answered `Err` (R232) -/
  | transportError
  /-- the operands are not accepted (R233) -/
  | invalidInput
  /-- reserved, never emitted (R234) -/
  | responseMalformed
  /-- an unassigned opcode byte (R235) -/
  | unknown
  deriving DecidableEq, Repr

/-- The status byte of an outcome (R230). -/
def statusByte : Status → Byte
  | .ok => 0x00
  | .transportError => 0x01
  | .invalidInput => 0x02
  | .responseMalformed => 0x03
  | .unknown => 0x04

end Sys2Proof.Machine
end

