-- ==== Sys2Proof/Config.lean ====
section
/-! DEFINITION. What an implementation of the block fixes and the spec leaves OPEN (00_scope.md R8), and the free values.
Each is an opaque constant: nothing in Lean can evaluate it, so a statement about the model holds for every choice of it. -/

namespace Sys2Proof

/-- The two float-to-integer conversions `RATIO_CONV` may be (00_scope.md R8, 92_eei_decisions.md D17). -/
inductive RatioConv where
  /-- toward zero -/
  | trunc
  /-- to nearest, ties to even -/
  | rne
  deriving DecidableEq, Repr, Inhabited

/-- `DEFAULT_ADDRESS`, the reset value of `ADDR`: OPEN (R8, R44, D8, U5). DESIGN CHOICE, safe: kept a parameter (log 3). -/
opaque Config.defaultAddress : Byte

/-- `RATIO_CONV`, the conversion of `RATIO_TO_VALUE`: OPEN (R8, R130, D17, U6). DESIGN CHOICE, safe: kept a parameter
(log 4). -/
opaque Config.ratioConv : RatioConv

/-- `NAN_PAYLOAD`, the draws for the bits of a NaN result of `MAP_RANGE_F`: OPEN (R8, R12, U7). The n-th draw is a sign and
the fraction less one, so that every NaN pattern and nothing else can be drawn (log 5). -/
opaque Config.nanPayload : Nat → Bool × Fin 8388607

/-- The rate the transport holds when the machine is first reset, "whatever the transport holds" (10_state.md R44, D38).
DESIGN CHOICE, safe: a free value (log 8). -/
opaque Config.initialLineRate : Word32

end Sys2Proof
end

