-- ==== Sys2Proof/Machine/State.lean ====
section
/-! DEFINITION. The state of the machine: the block's register and phase (10_state.md R31, R36), its four ports (R38 to R41),
the reset input (70_reset_and_hazards.md R270), and the state of the transport that the rules speak of (R43, R65, R170).
What the host and the transport choose stands here as plain data (log 1). -/

namespace Sys2Proof.Machine

/-- No request and no event stops the block: it has no traps (60_exceptions.md R240), and an error is a response (R230). So
no reason to stop with a fault exists, and nothing raises one: safe. -/
inductive Fault where
  deriving DecidableEq, Repr

/-- Why an instruction has no meaning in this model. -/
inductive Refusal where
  /-- Raised by an arm of `exec` alone, for an instruction the model gives no meaning yet; safe. No arm raises it now. -/
  | notModelled (mnemonic : String)
  deriving DecidableEq, Repr

/-- A frame: address, command code, data and checksum, `b0` first on the wire (30_encoding.md R101, 20_memory.md R61). -/
structure Frame where
  b0 : Byte
  b1 : Byte
  b2 : Byte
  b3 : Byte
  deriving DecidableEq, Repr

/-- The four bytes of a frame in wire order (R61, R101). -/
def Frame.bytes (f : Frame) : List Byte := [f.b0, f.b1, f.b2, f.b3]

/-- One operation offered to the transport (00_scope.md R14). -/
inductive TxOp where
  /-- `TxWrite(f)` (10_state.md R40) -/
  | write (f : Frame)
  /-- `TxSetBaud(r)` (10_state.md R41) -/
  | setBaud (r : Word32)
  deriving DecidableEq, Repr

/-- The transport's answer to a `TxWrite` (R40, U8). -/
inductive WriteAnswer where
  /-- `Ok`: the whole frame is written -/
  | ok
  /-- `Err(sub)`: the first `reached` bytes of the frame reached the line (42_config_commands.md R170, U9; log 7) -/
  | err (sub : Byte) (reached : Fin 5)
  deriving DecidableEq, Repr

/-- The transport's answer to a `TxSetBaud` (R41, U8). -/
inductive BaudAnswer where
  /-- `Ok`: the transport is at the new rate -/
  | ok
  /-- `Err(sub)`: the transport is at the new rate if `changed`, else at the old one (R176, U10; log 8) -/
  | err (sub : Byte) (changed : Bool)
  deriving DecidableEq, Repr

/-- The block's control state (10_state.md R36). -/
inductive Phase where
  /-- `Idle`: no request in progress -/
  | idle
  /-- `Receiving(op, bytes)`: the opcode byte and a strict prefix of the operand bytes have been accepted -/
  | receiving (op : Byte) (bytes : List Byte)
  /-- `WaitWrite(op, f)`: the frame has been offered and the transport has not answered -/
  | waitWrite (op : Byte) (f : Frame)
  /-- `WaitBaud(r)`: the baud rate has been offered and the transport has not answered -/
  | waitBaud (r : Word32)
  /-- `Responding`: the response is being delivered; `rest` is what the host has not taken of it (R39, R44) -/
  | responding (rest : List Byte)
  deriving DecidableEq, Repr

/-- The state of the machine. -/
structure State where
  /-- `ADDR`, the device address (R31) -/
  addr : Byte
  /-- the control state (R36) -/
  phase : Phase
  /-- request port: the bytes the host presents and the block has not accepted, in order (R38) -/
  reqPort : List Byte
  /-- response port: how many response bytes the host stands ready to take (R39) -/
  hostReady : Nat
  /-- response port: the response bytes the host has taken, in order (R39) -/
  taken : List Byte
  /-- transport ports: the operations offered, in order (R40, R41) -/
  offered : List TxOp
  /-- transport write port: the transport's answers to come; empty while it does not answer (R40, log 6) -/
  writeAnswers : List WriteAnswer
  /-- transport reconfiguration port: the transport's answers to come (R41, log 6) -/
  baudAnswers : List BaudAnswer
  /-- the transport's line: the bytes that reached it, in order (20_memory.md R65) -/
  line : List Byte
  /-- the transport's current baud rate (R43) -/
  lineRate : Word32
  /-- the reset input, one entry for each coming step; empty: not asserted (70_reset_and_hazards.md R270, log 9) -/
  resetLine : List Bool
  /-- the model's own: how many draws of `NAN_PAYLOAD` were taken (log 5) -/
  nanDraws : Nat
  deriving DecidableEq, Repr

/-- The machine right after reset, nothing presented at any port yet (R44, R270). `addr` and `lineRate` are parameters
(logs 3, 8); the ports' values are DESIGN CHOICE (logs 6, 9, 13, 14). -/
def State.reset : State where
  addr := Config.defaultAddress
  phase := .idle
  reqPort := []
  hostReady := 0
  taken := []
  offered := []
  writeAnswers := []
  baudAnswers := []
  line := []
  lineRate := Config.initialLineRate
  resetLine := []
  nanDraws := 0

end Sys2Proof.Machine
end

