-- ==== Sys2Proof/Machine/Ops.lean ====
section
/-! DEFINITION. The named operations the meanings share: the response primitives (00_scope.md R15), the frame (R16) and the
transport primitives (R14) with what the transport's answers do, delivering a response (10_state.md R39), accepting request
bytes (R38), and reset (70_reset_and_hazards.md R270). The block takes no exception and returns from none (60_exceptions.md
R240, R241): an error is `raise` of R15, the operations `raiseInvalidInput`, `raiseTransportError` and `raiseUnknown`. -/

namespace Sys2Proof.Machine

/-! ### Response primitives -/

/-- `respond(status, sub, payload)`: one response, status byte, sub-kind byte, payload (R15, 30_encoding.md R95). -/
def respond (status : Status) (sub : Byte) (payload : List Byte) (s : State) : State :=
  { s with phase := .responding (statusByte status :: sub :: payload) }

/-- `ok(payload)` (R15). -/
def respondOk (payload : List Byte) (s : State) : State := respond .ok 0x00 payload s

/-- `raise InvalidInput` (R15). -/
def raiseInvalidInput (s : State) : State := respond .invalidInput 0x00 [] s

/-- `raise TransportError(sub)` (R15). -/
def raiseTransportError (sub : Byte) (s : State) : State := respond .transportError sub [] s

/-- `raise Unknown` (R15). -/
def raiseUnknown (s : State) : State := respond .unknown 0x00 [] s

/-! ### Checksum, frame and motor encoding -/

/-- `ck7`: the sum of the bytes, masked to 7 bits (41_checksum.md R150). -/
def ck7 (d : List Byte) : Byte := BitVec.ofNat 8 ((d.map BitVec.toNat).sum &&& ckMask)

/-- `frame(c, d)` with the device address `addr` (R16, 41_checksum.md R152). -/
def frame (addr c d : Byte) : Frame := { b0 := addr, b1 := c, b2 := d, b3 := ck7 [addr, c, d] }

/-- `map_z` (40_numeric_mapping.md R120), with `tdiv` of 00_scope.md R11; used where `fh` differs from `fl`. -/
def mapZ (fl fh tl th v : Int) : Int := tl + Int.tdiv ((v - fl) * (th - tl)) (fh - fl)

/-- `motor(fwd, rev, v)`: command code and data byte of a motor value (43_motor_commands.md R200). -/
def motor (fwd rev : Byte) (v : Int) : Byte × Byte :=
  if 0 ≤ v then (fwd, toByte (min 127 v)) else (rev, toByte (-(max (-127) v)))

/-- The data code of a baud rate (42_config_commands.md R176). -/
def baudCode (r : Word32) : Option Byte := baudTable.lookup r

/-- The baud rate of a data code: `BAUD_TABLE` read the other way. -/
def baudRateOfCode (d : Byte) : Option Word32 := (baudTable.map fun p => (p.2, p.1)).lookup d

/-! ### Transport primitives -/

/-- `TxWrite(f)`: offer the frame of command code `c` and data `d` for the request with opcode `op`, and wait (R14,
10_state.md R36, R37, 42_config_commands.md R170). -/
def offerFrame (op c d : Byte) (s : State) : State :=
  { s with
    phase := .waitWrite op (frame s.addr c d)
    offered := s.offered ++ [.write (frame s.addr c d)] }

/-- `TxSetBaud(r)`: offer the rate and wait (R14, R36). -/
def offerBaud (r : Word32) (s : State) : State :=
  { s with
    phase := .waitBaud r
    offered := s.offered ++ [.setBaud r] }

/-- The rate a request with opcode `op` has still to set once its frame `f` is written: only `SET_BAUD_RATE` has one
(R176). DEDUCED, safe: `WaitWrite(op, f)` holds no rate, and the frame's data code names it (log 10). -/
def pendingRate (op : Byte) (f : Frame) : Option Word32 :=
  if op = opSetBaudRate then baudRateOfCode f.b2 else none

/-- What a transport that gave this answer has put on the line of the frame `f` (20_memory.md R65, R170, U9). -/
def lineBytes (f : Frame) : WriteAnswer → List Byte
  | .ok => f.bytes
  | .err _ reached => f.bytes.take reached.val

/-- The transport's rate after it gave this answer to `TxSetBaud(r)`, from the rate `old` (R176, U10). -/
def rateAfter (r old : Word32) : BaudAnswer → Word32
  | .ok => r
  | .err _ changed => if changed then r else old

/-- The block goes on after the answer to `TxWrite(f)`: an error response, the reconfiguration, or success (R170, R176). -/
def afterWrite (op : Byte) (f : Frame) (a : WriteAnswer) (s : State) : State :=
  match a with
  | .err sub _ => raiseTransportError sub s
  | .ok =>
    match pendingRate op f with
    | some r => offerBaud r s
    | none => respondOk [] s

/-- The block goes on after the answer to `TxSetBaud(r)` (R176). -/
def afterBaud (a : BaudAnswer) (s : State) : State :=
  match a with
  | .err sub _ => raiseTransportError sub s
  | .ok => respondOk [] s

/-- The transport answers the frame it was offered, if it has an answer to give; else it goes on not answering (R14, R30).
DESIGN CHOICE, unsafe: what reaches the line reaches it in the step of the answer, all at once, and nothing of the frame is on
the line while it is unanswered (R65 and R284 leave this to the transport; log 20). -/
def answerWrite (op : Byte) (f : Frame) (s : State) : State :=
  match s.writeAnswers with
  | [] => s
  | a :: rest => afterWrite op f a { s with writeAnswers := rest, line := s.line ++ lineBytes f a }

/-- The transport answers the rate it was offered, if it has an answer to give (R14, R30). DESIGN CHOICE, unsafe: a change of
the rate comes in the step of the answer, and the rate stays while `TxSetBaud` is unanswered (R284 leaves this to the
transport; log 20). -/
def answerBaud (r : Word32) (s : State) : State :=
  match s.baudAnswers with
  | [] => s
  | a :: rest => afterBaud a { s with baudAnswers := rest, lineRate := rateAfter r s.lineRate a }

/-! ### Ports -/

/-- The phase once the response bytes `rest` are still to be taken (R39, R240). -/
def afterTaking : List Byte → Phase
  | [] => .idle
  | b :: rest => .responding (b :: rest)

/-- The host takes the next response byte if it stands ready to; when it has taken the last, the block is `Idle` (R39). -/
def deliver (response : List Byte) (s : State) : State :=
  match response, s.hostReady with
  | [], _ => { s with phase := .idle }
  | _ :: _, 0 => s
  | b :: rest, n + 1 => { s with phase := afterTaking rest, hostReady := n, taken := s.taken ++ [b] }

/-- The request bytes accepted so far, while the block accepts any: in `Idle` and `Receiving` (R36, R38). -/
def acceptedBytes : Phase → Option (List Byte)
  | .idle => some []
  | .receiving op bytes => some (op :: bytes)
  | .waitWrite _ _ => none
  | .waitBaud _ => none
  | .responding _ => none

/-- The block accepts the next byte the host presents: the bytes of the request so far with that byte, and the state with
the byte gone from the request port. None where it accepts none or none is presented (R38). -/
def acceptByte (s : State) : Option (List Byte × State) :=
  match acceptedBytes s.phase, s.reqPort with
  | some q, b :: rest => some (q ++ [b], { s with reqPort := rest })
  | some _, [] => none
  | none, _ => none

/-- The phase in which exactly the request bytes `q` have been accepted and more are to come (R36). -/
def receivingPhase : List Byte → Phase
  | [] => .idle
  | op :: bytes => .receiving op bytes

/-- More bytes of the request are to come (R36). -/
def keepReceiving (q : List Byte) (s : State) : State := { s with phase := receivingPhase q }

/-- What happens where the block accepts no byte: it waits for the host or the transport, or one of them acts (R36, R249,
R250, 70_reset_and_hazards.md R284). -/
def otherMove (s : State) : State :=
  match s.phase with
  | .idle => s
  | .receiving _ _ => s
  | .waitWrite op f => answerWrite op f s
  | .waitBaud r => answerBaud r s
  | .responding rest => deliver rest s

/-! ### Reset -/

/-- Whether the reset input is asserted at this step (R270). -/
def resetAsserted (s : State) : Bool := s.resetLine.headD false

/-- The reset input moves on by one step. -/
def clockReset (s : State) : State := { s with resetLine := s.resetLine.tail }

/-- The transport goes on with the operation it was offered when reset came: what it had of the frame, or of the rate, in
hand happens, and its answer is ignored (70_reset_and_hazards.md R271, U12; log 9). DESIGN CHOICE, unsafe: it happens in the
reset step itself, never later; R271 lists the outcomes and not their time (log 21). -/
def abandonTransport (s : State) : State :=
  match s.phase with
  | .waitWrite _ f =>
    match s.writeAnswers with
    | [] => s
    | a :: rest => { s with writeAnswers := rest, line := s.line ++ lineBytes f a }
  | .waitBaud r =>
    match s.baudAnswers with
    | [] => s
    | a :: rest => { s with baudAnswers := rest, lineRate := rateAfter r s.lineRate a }
  | .idle => s
  | .receiving _ _ => s
  | .responding _ => s

/-- Reset: `ADDR <- DEFAULT_ADDRESS`, `phase <- Idle`; the bytes of a partly received request and a response not yet taken
are gone with the phase; nothing is offered and nothing emitted (R270, R271). -/
def takeReset (s : State) : State :=
  { abandonTransport s with
    addr := Config.defaultAddress
    phase := .idle }

end Sys2Proof.Machine
end

