-- ==== Sys2Proof/Machine/Checksum.lean ====
section
/-! DEFINITION. The checksum request (41_checksum.md). -/

namespace Sys2Proof.Machine

/-- `CHECKSUM` (R151). -/
def execChecksum (data : List Byte) (s : State) : Host.Outcome State Fault Refusal :=
  .next (respondOk [ck7 data] s)

end Sys2Proof.Machine
end

