-- ==== Sys2Proof/Machine/ConfigCommands.lean ====
section
/-! DEFINITION. The address and configuration commands (42_config_commands.md). A meaning runs once its request has been
fully accepted, and ends where the block next waits: for the transport, or for the host to take the response (10_state.md
R36); what the transport's answer then does is `afterWrite` and `afterBaud`. -/

namespace Sys2Proof.Machine

/-- `SET_ADDRESS` (R171): every value is stored. -/
def execSetAddress (a : Byte) (s : State) : Host.Outcome State Fault Refusal :=
  .next (respondOk [] { s with addr := a })

/-- `SET_MIN_VOLTAGE` (R172): the data byte is the operand unchanged, and may exceed 127 (30_encoding.md R102). -/
def execSetMinVoltage (a : Byte) (s : State) : Host.Outcome State Fault Refusal :=
  .next (offerFrame opSetMinVoltage codeMinVoltage a s)

/-- `SET_MAX_VOLTAGE` (R173): as `SET_MIN_VOLTAGE`. -/
def execSetMaxVoltage (a : Byte) (s : State) : Host.Outcome State Fault Refusal :=
  .next (offerFrame opSetMaxVoltage codeMaxVoltage a s)

/-- The milliseconds of a timeout with 1..99 rounded up to one unit (R174). -/
def roundedMs (a : Word16) : Int := if 1 ≤ u16 a ∧ u16 a ≤ 99 then 100 else u16 a

/-- The data byte of an accepted timeout (R174). -/
def timeoutData (a : Word16) : Byte := toByte (mapZ 0 timeoutMaxMs 0 127 (roundedMs a))

/-- `SET_SERIAL_TIMEOUT` (R174). -/
def execSetSerialTimeout (a : Word16) (s : State) : Host.Outcome State Fault Refusal :=
  if timeoutMaxMs < u16 a then .next (raiseInvalidInput s)
  else .next (offerFrame opSetSerialTimeout codeSerialTimeout (timeoutData a) s)

/-- `SET_BAUD_RATE` (R176), up to its frame; the reconfiguration follows the answer, in `afterWrite`. -/
def execSetBaudRate (a : Word32) (s : State) : Host.Outcome State Fault Refusal :=
  match baudCode a with
  | some d => .next (offerFrame opSetBaudRate codeBaudRate d s)
  | none => .next (raiseInvalidInput s)

/-- `SET_RAMPING` (R177). -/
def execSetRamping (a : Byte) (s : State) : Host.Outcome State Fault Refusal :=
  .next (offerFrame opSetRamping codeRamping (toByte (mapZ 0 255 0 80 (u8 a))) s)

/-- `SET_DEADBAND` (R178). -/
def execSetDeadband (a : Byte) (s : State) : Host.Outcome State Fault Refusal :=
  .next (offerFrame opSetDeadband codeDeadband (toByte (mapZ 0 255 0 127 (u8 a))) s)

end Sys2Proof.Machine
end

