-- ==== Sys2Proof/Machine/Float.lean ====
section
/-! DEFINITION. The binary32 primitives of 00_scope.md R12, each rounded to nearest, ties to even (R8 `FLOAT_FMT`). PRESUMED:
the semantics of IEEE 754 are general knowledge in the spec itself (G3, log 11). A finite value is held exactly, as a sign
and a whole number of units of 2^-149, the smallest subnormal; every finite binary32 value is such a number. -/

namespace Sys2Proof.Machine

/-- A binary32 value; the bits of a NaN are no part of it, since no rule but the final draw speaks of them (R12). -/
inductive Fp where
  /-- not a number -/
  | nan
  /-- an infinity -/
  | inf (neg : Bool)
  /-- `mag` units of 2^-149, negated if `neg`; zero has both signs -/
  | fin (neg : Bool) (mag : Nat)
  deriving DecidableEq, Repr

/-- 1.0 in units of 2^-149. -/
def fpOne : Nat := 2 ^ 149

/-- 2^128 in units of 2^-149: the least magnitude too large for binary32. -/
def fpTooLarge : Nat := 2 ^ 277

/-- The value of a bit pattern: bit 31 sign, bits 30..23 exponent, bits 22..0 fraction (30_encoding.md R82). -/
def fpOfBits (b : Word32) : Fp :=
  let neg := b.msb
  let e := (b.extractLsb' 23 8).toNat
  let f := (b.extractLsb' 0 23).toNat
  if e = 255 then (if f = 0 then .inf neg else .nan)
  else if e = 0 then .fin neg f
  else .fin neg ((2 ^ 23 + f) * 2 ^ (e - 1))

/-- The bit pattern of `n` with the sign bit `neg`, `n` below 2^31. -/
def withSign (neg : Bool) (n : Nat) : Word32 := BitVec.ofNat 32 ((if neg then 2 ^ 31 else 0) + n)

/-- The NaN bit pattern a draw stands for: its sign, exponent 255, and its fraction, which is not 0 (R8 `NAN_PAYLOAD`). -/
def nanBits (draw : Bool × Fin 8388607) : Word32 := withSign draw.1 (255 * 2 ^ 23 + (draw.2.val + 1))

/-- The exponent field less one of a normal magnitude, and 0 for a subnormal one: `mag` is a 24-bit number of units of
`2 ^ fpScale mag`. -/
def fpScale (mag : Nat) : Nat := mag.log2 - 23

/-- The bit pattern of a value; `draw` gives the bits of a NaN (R12, R82). -/
def fpToBits (draw : Bool × Fin 8388607) : Fp → Word32
  | .nan => nanBits draw
  | .inf neg => withSign neg (255 * 2 ^ 23)
  | .fin neg mag => withSign neg (fpScale mag * 2 ^ 23 + mag / 2 ^ fpScale mag)

/-- `num / den` to the nearest whole number, ties to even; `den` is not 0. -/
def rneDiv (num den : Nat) : Nat :=
  let q := num / den
  let r := num % den
  if 2 * r < den then q
  else if den < 2 * r then q + 1
  else if q % 2 = 0 then q
  else q + 1

/-- The magnitude `num / den` (units of 2^-149) correctly rounded to nearest, ties to even, with the sign `neg`: 24
significant bits, or whole units where there are fewer, and an infinity from 2^128 on (R12). -/
def fpRound (neg : Bool) (num den : Nat) : Fp :=
  let k := fpScale (num / den)
  let mag := rneDiv num (den * 2 ^ k) * 2 ^ k
  if mag < fpTooLarge then .fin neg mag else .inf neg

/-- A signed magnitude as a whole number of units. -/
def signedMag (neg : Bool) (mag : Nat) : Int := if neg then -(mag : Int) else mag

/-- `-x`. -/
def fpNeg : Fp → Fp
  | .nan => .nan
  | .inf neg => .inf (!neg)
  | .fin neg mag => .fin (!neg) mag

/-- `fadd` (R12). The sum of two zeros, and an exact zero sum, is `+0` unless both are negative. -/
def fadd : Fp → Fp → Fp
  | .nan, _ => .nan
  | .inf _, .nan => .nan
  | .fin _ _, .nan => .nan
  | .inf a, .inf b => if a = b then .inf a else .nan
  | .inf a, .fin _ _ => .inf a
  | .fin _ _, .inf b => .inf b
  | .fin a m, .fin b n =>
    let sum := signedMag a m + signedMag b n
    if sum = 0 then .fin (a && b) 0 else fpRound (decide (sum < 0)) sum.natAbs 1

/-- `fsub` (R12). -/
def fsub (x y : Fp) : Fp := fadd x (fpNeg y)

/-- `fmul` (R12). -/
def fmul : Fp → Fp → Fp
  | .nan, _ => .nan
  | .inf _, .nan => .nan
  | .fin _ _, .nan => .nan
  | .inf a, .inf b => .inf (a != b)
  | .inf a, .fin b n => if n = 0 then .nan else .inf (a != b)
  | .fin a m, .inf b => if m = 0 then .nan else .inf (a != b)
  | .fin a m, .fin b n => fpRound (a != b) (m * n) fpOne

/-- `fdiv` (R12). -/
def fdiv : Fp → Fp → Fp
  | .nan, _ => .nan
  | .inf _, .nan => .nan
  | .fin _ _, .nan => .nan
  | .inf _, .inf _ => .nan
  | .inf a, .fin b _ => .inf (a != b)
  | .fin a _, .inf b => .fin (a != b) 0
  | .fin a m, .fin b n =>
    if n = 0 then (if m = 0 then .nan else .inf (a != b)) else fpRound (a != b) (m * fpOne) n

/-- `f32_of_i32`, on any value of `Z` (R12). -/
def fpOfInt (v : Int) : Fp := fpRound (decide (v < 0)) (v.natAbs * fpOne) 1

/-- `x <= y`, false where either is a NaN (R12, R130). -/
def fpLe : Fp → Fp → Bool
  | .nan, _ => false
  | .inf _, .nan => false
  | .fin _ _, .nan => false
  | .inf a, .inf b => a || !b
  | .inf a, .fin _ _ => a
  | .fin _ _, .inf b => !b
  | .fin a m, .fin b n => decide (signedMag a m ≤ signedMag b n)

/-- `x == +0.0 or x == -0.0` (40_numeric_mapping.md R126). -/
def fpIsZero : Fp → Bool
  | .nan => false
  | .inf _ => false
  | .fin _ mag => decide (mag = 0)

/-- `fconv`: a finite value to `Z` by `RATIO_CONV` (R12, R130). The rules apply it to finite values only; the answer on the
others reaches no result. -/
def fconv (conv : RatioConv) : Fp → Int
  | .fin neg mag =>
    match conv with
    | .trunc => signedMag neg (mag / fpOne)
    | .rne => signedMag neg (rneDiv mag fpOne)
  | .inf _ => 0
  | .nan => 0

end Sys2Proof.Machine
end

