-- ==== Sys2Proof/Machine/Mapping.lean ====
section
/-! DEFINITION. The linear range remapper (40_numeric_mapping.md). -/

namespace Sys2Proof.Machine

/-- `MAP_RANGE_I` (R121): the degenerate range before the result's range. -/
def execMapRangeI (fl fh tl th v : Word32) (s : State) : Host.Outcome State Fault Refusal :=
  let r := mapZ (i32 fl) (i32 fh) (i32 tl) (i32 th) (i32 v)
  if i32 fh = i32 fl then .next (raiseInvalidInput s)
  else if fitsI32 r then .next (respondOk (bytes32 (toI32 r)) s)
  else .next (raiseInvalidInput s)

/-- `map_f` (R125): six steps, each rounded, in the formula's order. -/
def mapF (fl fh tl th v : Fp) : Fp :=
  let t1 := fsub v fl
  let t2 := fsub th tl
  let t3 := fmul t1 t2
  let t4 := fsub fh fl
  let t5 := fdiv t3 t4
  fadd tl t5

/-- The draw of `NAN_PAYLOAD` at this state (00_scope.md R8, U7, log 5). -/
def currentDraw (s : State) : Bool × Fin 8388607 := Config.nanPayload s.nanDraws

/-- A NaN result takes a draw, so that the next one takes another (log 5). -/
def countDraw (r : Fp) (s : State) : State :=
  if r = .nan then { s with nanDraws := s.nanDraws + 1 } else s

/-- `MAP_RANGE_F` (R126). -/
def execMapRangeF (fl fh tl th v : Word32) (s : State) : Host.Outcome State Fault Refusal :=
  let r := mapF (fpOfBits fl) (fpOfBits fh) (fpOfBits tl) (fpOfBits th) (fpOfBits v)
  if fpIsZero (fsub (fpOfBits fh) (fpOfBits fl)) then .next (raiseInvalidInput s)
  else .next (respondOk (bytes32 (fpToBits (currentDraw s) r)) (countDraw r s))

/-- `-1.0 <= a and a <= 1.0`, false for a NaN (R130). -/
def ratioInRange (a : Fp) : Bool := fpLe (.fin true fpOne) a && fpLe a (.fin false fpOne)

/-- `2047.0` (R130, R135); exact in binary32 (R131). -/
def fpRatioScale : Fp := fpOfInt ratioMax

/-- The value of a ratio in range: scaled, converted and clamped (R130). -/
def ratioValue (conv : RatioConv) (a : Fp) : Int :=
  min ratioMax (max ratioMin (fconv conv (fmul a fpRatioScale)))

/-- `RATIO_TO_VALUE` (R130). -/
def execRatioToValue (a : Word32) (s : State) : Host.Outcome State Fault Refusal :=
  if ratioInRange (fpOfBits a) then
    .next (respondOk (bytes32 (toI32 (ratioValue Config.ratioConv (fpOfBits a)))) s)
  else .next (raiseInvalidInput s)

/-- The ratio of a value (R135). -/
def valueRatio (v : Int) : Fp := fdiv (fpOfInt v) fpRatioScale

/-- `VALUE_TO_RATIO` (R135). The result is never a NaN, so no draw is taken: the draw named here reaches no bit. -/
def execValueToRatio (a : Word32) (s : State) : Host.Outcome State Fault Refusal :=
  .next (respondOk (bytes32 (fpToBits (currentDraw s) (valueRatio (i32 a)))) s)

end Sys2Proof.Machine
end

