-- ==== Sys2Proof/Machine/MotorCommands.lean ====
section
/-! DEFINITION. The motor commands and the answer to an unassigned opcode (43_motor_commands.md). -/

namespace Sys2Proof.Machine

/-- `DRIVE_M1` (R201). -/
def execDriveM1 (a : Byte) (s : State) : Host.Outcome State Fault Refusal :=
  let m := motor codeM1Fwd codeM1Rev (i8 a)
  .next (offerFrame opDriveM1 m.1 m.2 s)

/-- `DRIVE_M2` (R202). -/
def execDriveM2 (a : Byte) (s : State) : Host.Outcome State Fault Refusal :=
  let m := motor codeM2Fwd codeM2Rev (i8 a)
  .next (offerFrame opDriveM2 m.1 m.2 s)

/-- `DRIVE_MIXED` (R203). -/
def execDriveMixed (a : Byte) (s : State) : Host.Outcome State Fault Refusal :=
  let m := motor codeMixedDriveFwd codeMixedDriveRev (i8 a)
  .next (offerFrame opDriveMixed m.1 m.2 s)

/-- `TURN_MIXED` (R204). -/
def execTurnMixed (a : Byte) (s : State) : Host.Outcome State Fault Refusal :=
  let m := motor codeMixedTurnFwd codeMixedTurnRev (i8 a)
  .next (offerFrame opTurnMixed m.1 m.2 s)

/-- An unassigned opcode, whichever it is (R215): it answers `UNKNOWN` and has no other effect. -/
def execUnassigned (_op : Byte) (s : State) : Host.Outcome State Fault Refusal :=
  .next (raiseUnknown s)

end Sys2Proof.Machine
end

