-- ==== Sys2Proof/Machine/Dispatch.lean ====
section
/-! DEFINITION. The meaning of each request operation (30_encoding.md R84). -/

namespace Sys2Proof.Machine

/-- What the block does when it has accepted the last byte of the request `i`, up to where it next waits (10_state.md R36). -/
def exec (i : Instr) (s : State) : Host.Outcome State Fault Refusal :=
  match i with
  | .setAddress a => Sys2Proof.Machine.execSetAddress a s
  | .driveM1 a => Sys2Proof.Machine.execDriveM1 a s
  | .driveM2 a => Sys2Proof.Machine.execDriveM2 a s
  | .driveMixed a => Sys2Proof.Machine.execDriveMixed a s
  | .turnMixed a => Sys2Proof.Machine.execTurnMixed a s
  | .setMinVoltage a => Sys2Proof.Machine.execSetMinVoltage a s
  | .setMaxVoltage a => Sys2Proof.Machine.execSetMaxVoltage a s
  | .setSerialTimeout a => Sys2Proof.Machine.execSetSerialTimeout a s
  | .setBaudRate a => Sys2Proof.Machine.execSetBaudRate a s
  | .setRamping a => Sys2Proof.Machine.execSetRamping a s
  | .setDeadband a => Sys2Proof.Machine.execSetDeadband a s
  | .checksum data => Sys2Proof.Machine.execChecksum data s
  | .mapRangeI fl fh tl th v => Sys2Proof.Machine.execMapRangeI fl fh tl th v s
  | .mapRangeF fl fh tl th v => Sys2Proof.Machine.execMapRangeF fl fh tl th v s
  | .ratioToValue a => Sys2Proof.Machine.execRatioToValue a s
  | .valueToRatio a => Sys2Proof.Machine.execValueToRatio a s
  | .unassigned op => Sys2Proof.Machine.execUnassigned op s

end Sys2Proof.Machine
end

