-- ==== Sys2Proof/Machine/Step.lean ====
section
/-! DEFINITION. One step of the machine (10_state.md R36, R38, R39): reset if it is asserted; else the block accepts the next
request byte, and runs the request if that byte is its last; else the transport or the host acts, or all wait. -/

namespace Sys2Proof.Machine

/-- The block has accepted the bytes `q` of a request: it runs the request if they are all of it (R36, R87). -/
def runRequest (q : List Byte) (s : State) : Host.Outcome State Fault Refusal :=
  match decode q with
  | .ok (i, _) => exec i s
  | .error _ => .next (keepReceiving q s)

/-- A step in which reset is not asserted (R36). -/
def stepRunning (s : State) : Host.Outcome State Fault Refusal :=
  match acceptByte s with
  | some (q, s') => runRequest q s'
  | none => .next (otherMove s)

/-- One step. Reset wins over whatever else could happen (60_exceptions.md R239). -/
def step (s : State) : Host.Outcome State Fault Refusal :=
  if resetAsserted s then .next (takeReset (clockReset s)) else stepRunning (clockReset s)

/-- `s` with the request of `decodeTableWord nbits w` about to be complete: all its bytes but the last have been accepted,
the host presents the last one next, and reset is not asserted at the next step (log 13). -/
def State.withFetchWord (s : State) (nbits w : Nat) : State :=
  { s with
    phase := receivingPhase (tableRequest nbits w).dropLast
    reqPort := (tableRequest nbits w).getLastD 0 :: s.reqPort
    resetLine := false :: s.resetLine }

end Sys2Proof.Machine
end

