-- ==== Sys2Proof/Safety.lean ====
section
/-! DEFINITION. What a legal state of the machine is, and the terms the claims use: which frames, transport operations and
responses the rules admit (30_encoding.md R95, R96, R100 to R103, 60_exceptions.md R230), and what a request looks like from
its ports. These say again, in the rules' own numbers, what the operations of Machine/ compute. -/

namespace Sys2Proof.Machine

/-! ### Frames and transport operations -/

/-- Frame byte layout with the checksum written out (R101). -/
def wireFrame (addr c d : Byte) : Frame :=
  { b0 := addr, b1 := c, b2 := d, b3 := BitVec.ofNat 8 ((addr.toNat + c.toNat + d.toNat) % 128) }

/-- Which request opcode emits which command code (R100). -/
def emitters : List (Byte × Byte) :=
  [(0x10, 0), (0x10, 1), (0x20, 2), (0x21, 3), (0x11, 4), (0x11, 5), (0x12, 8), (0x12, 9), (0x13, 10), (0x13, 11),
   (0x22, 14), (0x23, 15), (0x24, 16), (0x25, 17)]

/-- A frame the block may emit: its code is emitted by some request, its data is at most 127 but for the voltage codes, and
its checksum is right (R101, R102, R103). -/
def legalFrame (f : Frame) : Bool :=
  (emitters.map Prod.snd).contains f.b1 &&
    (f.b1 == 2 || f.b1 == 3 || decide (f.b2.toNat ≤ 127)) &&
    decide (f.b3.toNat = (f.b0.toNat + f.b1.toNat + f.b2.toNat) % 128)

/-- The baud rates the block may offer (10_state.md R41). -/
def offeredRates : List Word32 := [2400, 9600, 19200, 38400, 115200]

/-- A transport operation the block may offer (R40, R41). -/
def legalTxOp : TxOp → Bool
  | .write f => legalFrame f
  | .setBaud r => offeredRates.contains r

/-! ### Responses -/

/-- A whole response (R95, R96, R230): an error or an `OK` of two bytes, a checksum's three, or six with a 4-byte payload. -/
def legalResponse : List Byte → Bool
  | [status, sub] => status == 0x01 || (sub == 0x00 && (status == 0x00 || status == 0x02 || status == 0x04))
  | [status, sub, c] => status == 0x00 && sub == 0x00 && !c.msb
  | [status, sub, _, _, _, _] => status == 0x00 && sub == 0x00
  | _ => false

/-- What may be left of a response while it is delivered (R39): its last bytes, at least one. -/
def pendingResponse (rest : List Byte) : Prop := rest ≠ [] ∧ ∃ sent, legalResponse (sent ++ rest) = true

/-! ### Legal states -/

/-- What a phase says when it is one the block can be in (R36). -/
def legalPhase (s : State) : Prop :=
  match s.phase with
  | .idle => True
  | .receiving op bytes => decode (op :: bytes) = .error .truncated
  | .waitWrite op f =>
    f.b0 = s.addr ∧ legalFrame f = true ∧ (op, f.b1) ∈ emitters ∧ (op = 0x23 → (baudRateOfCode f.b2).isSome = true) ∧
      s.offered.getLast? = some (.write f)
  | .waitBaud r => offeredRates.contains r = true ∧ s.offered.getLast? = some (.setBaud r)
  | .responding rest => pendingResponse rest

/-- Every transport operation offered so far is one the block may offer. -/
def legalHistory (s : State) : Prop := ∀ o ∈ s.offered, legalTxOp o = true

/-- A legal state of the machine. -/
def Legal (s : State) : Prop := legalPhase s ∧ legalHistory s

/-- Every `TxSetBaud` in a history of transport operations comes directly after a `TxWrite` of a baud-rate frame whose data
code names that rate (R70, 42_config_commands.md R176). -/
def BaudFollowsFrame (ops : List TxOp) : Prop :=
  ∀ before r after, ops = before ++ .setBaud r :: after →
    ∃ earlier f, before = earlier ++ [.write f] ∧ f.b1 = 15 ∧ baudRateOfCode f.b2 = some r

/-! ### Runs, seen from the ports -/

/-- The block goes from `s` to waiting for the transport's answer to `wireFrame s.addr c d`, and nothing else changes (R14,
R36, R170). -/
def offering (op c d : Byte) (s : State) : State :=
  { s with
    phase := .waitWrite op (wireFrame s.addr c d)
    offered := s.offered ++ [.write (wireFrame s.addr c d)] }

/-- The block goes from `s` to delivering `response`, and nothing else changes (R15, R95). -/
def responding (response : List Byte) (s : State) : State := { s with phase := .responding response }

/-- The template of R170 after the frame `f` of the request with opcode `op` has been offered, from any state in that wait:
without an answer the block goes on waiting; `Err(sub)` is the response `01 sub`, with a prefix of the frame on the line; `Ok`
is the response `00 00`, with the frame on the line. What is on the line and when is the model's choice (logs 7, 20). -/
def writeConcludes (op : Byte) (f : Frame) : Prop :=
  ∀ s : State, resetAsserted s = false → s.phase = .waitWrite op f →
    (s.writeAnswers = [] → step s = .next (clockReset s)) ∧
    (∀ sub reached rest, s.writeAnswers = .err sub reached :: rest →
      step s = .next { clockReset s with
        phase := .responding [0x01, sub]
        writeAnswers := rest
        line := s.line ++ [f.b0, f.b1, f.b2, f.b3].take reached.val }) ∧
    (∀ rest, s.writeAnswers = .ok :: rest →
      step s = .next { clockReset s with
        phase := .responding [0x00, 0x00]
        writeAnswers := rest
        line := s.line ++ [f.b0, f.b1, f.b2, f.b3] })

/-- `n` steps, up to the first that stops: `Host.Core.run` of this machine (`runSteps_eq_run` in Laws/Run.lean). -/
def runSteps : Nat → State → Host.Outcome State Fault Refusal
  | 0, s => .next s
  | n + 1, s =>
    match step s with
    | .next t => runSteps n t
    | .fault r => .fault r
    | .refused r => .refused r

/-- A run of `n` steps from `s` reaches `t` (no step stops). -/
def reaches (n : Nat) (s t : State) : Prop := runSteps n s = .next t

/-- Two states alike in everything but the device address and what shows it at the transport: the frames' bytes 0 and 3, the
history of frames and the line. -/
def alikeButAddr (s t : State) : Prop :=
  s.reqPort = t.reqPort ∧ s.hostReady = t.hostReady ∧ s.taken = t.taken ∧ s.writeAnswers = t.writeAnswers ∧
    s.baudAnswers = t.baudAnswers ∧ s.lineRate = t.lineRate ∧ s.resetLine = t.resetLine ∧ s.nanDraws = t.nanDraws ∧
    match s.phase, t.phase with
    | .waitWrite op f, .waitWrite op' g => op = op' ∧ f.b1 = g.b1 ∧ f.b2 = g.b2
    | p, q => p = q

/-! ### Terms of single claims -/

/-- The decoder takes exactly `k` bytes, the opcode byte `op` among them, and turns fewer away as truncated (R87). -/
def requestTakes (k : Nat) (op : Byte) (q : List Byte) : Prop :=
  if q.length + 1 < k then decode (op :: q) = .error .truncated
  else ∃ i, decode (op :: q) = .ok (i, q.drop (k - 1))

/-- The request `i` with opcode `op` offers a frame of the split-by-sign encoding of `v`: the code `fwd` and `min(127, v)`
for `v >= 0`, the code `rev` and `-max(-127, v)` for `v < 0` (43_motor_commands.md R200). -/
def offersMotorFrame (i : Instr) (op fwd rev : Byte) (v : Int) : Prop :=
  ∀ s : State, ∃ d : Byte,
    (0 ≤ v → (d.toNat : Int) = min 127 v ∧ exec i s = .next (offering op fwd d s)) ∧
    (v < 0 → (d.toNat : Int) = -(max (-127) v) ∧ exec i s = .next (offering op rev d s))

/-- `SET_BAUD_RATE a` after its frame with data code `d` has been offered (R176): `Err` ends it with no `TxSetBaud`; `Ok` is
followed by `TxSetBaud(a)`, whose own answer decides the response, and the transport's rate. What is on the line, which rate the
transport is at after `Err`, and when either changes, is the model's choice (logs 7, 8, 20). -/
def baudConcludes (d : Byte) (a : Word32) : Prop :=
  (∀ (s : State) (f : Frame), resetAsserted s = false → s.phase = .waitWrite 0x23 f → f.b2 = d →
    (s.writeAnswers = [] → step s = .next (clockReset s)) ∧
    (∀ sub reached rest, s.writeAnswers = .err sub reached :: rest →
      step s = .next { clockReset s with
        phase := .responding [0x01, sub]
        writeAnswers := rest
        line := s.line ++ [f.b0, f.b1, f.b2, f.b3].take reached.val }) ∧
    (∀ rest, s.writeAnswers = .ok :: rest →
      step s = .next { clockReset s with
        phase := .waitBaud a
        offered := s.offered ++ [.setBaud a]
        writeAnswers := rest
        line := s.line ++ [f.b0, f.b1, f.b2, f.b3] })) ∧
  (∀ s : State, resetAsserted s = false → s.phase = .waitBaud a →
    (s.baudAnswers = [] → step s = .next (clockReset s)) ∧
    (∀ sub changed rest, s.baudAnswers = .err sub changed :: rest →
      step s = .next { clockReset s with
        phase := .responding [0x01, sub]
        baudAnswers := rest
        lineRate := if changed then a else s.lineRate }) ∧
    (∀ rest, s.baudAnswers = .ok :: rest →
      step s = .next { clockReset s with
        phase := .responding [0x00, 0x00]
        baudAnswers := rest
        lineRate := a }))

/-- A magnitude (in units of 2^-149) that a finite binary32 value has: 24 bits, scaled. -/
def representable (m : Nat) : Prop := ∃ n k, n < 2 ^ 24 ∧ k ≤ 253 ∧ m = n * 2 ^ k

/-- How far the magnitude `m` is from `num / den`, times `den`. -/
def distance (num den m : Nat) : Nat := ((num : Int) - (m : Int) * (den : Int)).natAbs

/-- The value `r` is the magnitude `num / den` (units of 2^-149) with the sign `neg`, rounded to nearest, ties to even: an
infinity from the midpoint above the largest finite value on, and else the representable magnitude that no other is nearer
than, its significand even where another is as near (00_scope.md R12). -/
def correctlyRounded (neg : Bool) (num den : Nat) (r : Fp) : Prop :=
  if (2 ^ 25 - 1) * 2 ^ 252 * den ≤ num then r = .inf neg
  else
    ∃ m, r = .fin neg m ∧ representable m ∧ ∀ m', representable m' →
      distance num den m ≤ distance num den m' ∧
      (m' ≠ m → distance num den m = distance num den m' → m / 2 ^ (m.log2 - 23) % 2 = 0)

/-- The response to a request with opcode `op` that offered a frame, from the transport's answer to the frame and, for
`SET_BAUD_RATE`, to the rate (R170, R176). -/
def responseToAnswers (op : Byte) : WriteAnswer → BaudAnswer → List Byte
  | .err sub _, _ => [0x01, sub]
  | .ok, .ok => [0x00, 0x00]
  | .ok, .err sub _ => if op = 0x23 then [0x01, sub] else [0x00, 0x00]

/-- The requests whose operands are refused with `INVALID_INPUT`, and when (60_exceptions.md R233). -/
def refusesOperands : Instr → Prop
  | .setSerialTimeout a => 12700 < a.toNat
  | .setBaudRate a => a ∉ offeredRates
  | .mapRangeI fl fh tl th v =>
    fh.toInt = fl.toInt ∨
      ¬(-2 ^ 31 ≤ mapZ fl.toInt fh.toInt tl.toInt th.toInt v.toInt ∧
        mapZ fl.toInt fh.toInt tl.toInt th.toInt v.toInt ≤ 2 ^ 31 - 1)
  | .mapRangeF fl fh _ _ _ => fpIsZero (fsub (fpOfBits fh) (fpOfBits fl)) = true
  | .ratioToValue a =>
    ¬(fpLe (fpOfBits 0xBF800000) (fpOfBits a) = true ∧ fpLe (fpOfBits a) (fpOfBits 0x3F800000) = true)
  | .setAddress _ | .driveM1 _ | .driveM2 _ | .driveMixed _ | .turnMixed _ | .setMinVoltage _ | .setMaxVoltage _ => False
  | .setRamping _ | .setDeadband _ | .checksum _ | .valueToRatio _ | .unassigned _ => False

/-- The response layouts of R96 for the request `i`. -/
def layoutFits (i : Instr) (response : List Byte) : Prop :=
  (∃ status, status ≠ 0x00 ∧ response = [status, 0x00]) ∨
    match i with
    | .checksum _ => ∃ c : Byte, c.msb = false ∧ response = [0x00, 0x00, c]
    | .mapRangeI _ _ _ _ _ => ∃ r0 r1 r2 r3, response = [0x00, 0x00, r0, r1, r2, r3]
    | .mapRangeF _ _ _ _ _ => ∃ r0 r1 r2 r3, response = [0x00, 0x00, r0, r1, r2, r3]
    | .ratioToValue _ => ∃ r0 r1 r2 r3, response = [0x00, 0x00, r0, r1, r2, r3]
    | .valueToRatio _ => ∃ r0 r1 r2 r3, response = [0x00, 0x00, r0, r1, r2, r3]
    | .setAddress _ | .driveM1 _ | .driveM2 _ | .driveMixed _ | .turnMixed _ | .setMinVoltage _ | .setMaxVoltage _
    | .setSerialTimeout _ | .setBaudRate _ | .setRamping _ | .setDeadband _ => response = [0x00, 0x00]
    | .unassigned _ => False

end Sys2Proof.Machine
end

