-- ==== Sys2Proof/Certificates/Slice0/Obligations.lean ====
section
/-! DEFINITION. The statements for the provers, from the spec's numbered rules. `OBLIGATIONS.json` lists them in order. -/

open Sys2Proof Sys2Proof.Machine

/-! ### Encodings (30_encoding.md) -/

/-- Decoding an encoded well-formed request gives it back, with whatever bytes follow. -/
def Obligations.DecodeInvertsEncode : Prop :=
  ∀ (i : Instr) (rest : List Byte), i.wellFormed = true → decode (encode i ++ rest) = .ok (i, rest)

/-- Whatever the decoder reads is a well-formed request, and its encoding is the bytes that were read. -/
def Obligations.EncodeInvertsDecode : Prop :=
  ∀ (q rest : List Byte) (i : Instr), decode q = .ok (i, rest) → i.wellFormed = true ∧ encode i ++ rest = q

/-- How many bytes a request has follows from its opcode byte, and for CHECKSUM from its count, as the spec derives from R81 and
R84 (its R87). -/
def Obligations.RequestLengthFromOpcode : Prop :=
  (∀ (op : Byte) (q : List Byte),
    (op ∈ [0x01, 0x10, 0x11, 0x12, 0x13, 0x20, 0x21, 0x24, 0x25] → requestTakes 2 op q) ∧
    (op = 0x22 → requestTakes 3 op q) ∧
    (op ∈ [0x23, 0x33, 0x34] → requestTakes 5 op q) ∧
    (op ∈ [0x31, 0x32] → requestTakes 21 op q) ∧
    (op ∉ assignedOpcodes → requestTakes 1 op q)) ∧
  (∀ q : List Byte, q.length < 2 → decode (0x30 :: q) = .error .truncated) ∧
  (∀ (n0 n1 : Byte) (q : List Byte), requestTakes (3 + (n0.toNat + 256 * n1.toNat)) 0x30 (n0 :: n1 :: q))

/-- No strict prefix of a request is a request: the block goes on receiving until the last byte. -/
def Obligations.RequestsArePrefixFree : Prop :=
  ∀ (i : Instr) (k : Nat), i.wellFormed = true → k < (encode i).length → ∃ e, decode ((encode i).take k) = .error e

/-- R83: whatever opcode and operand bytes have come, enough further bytes of any value make a request. -/
def Obligations.EveryOperandPatternDecodes : Prop :=
  ∀ (op : Byte) (q : List Byte), ∃ k, ∀ more : List Byte, k ≤ more.length → ∃ i rest, decode (op :: (q ++ more)) = .ok (i, rest)

/-- A few requests written out from the spec's own examples (R88). -/
def Obligations.ExampleRequestsDecode : Prop :=
  decode [0x01, 0x81] = .ok (.setAddress 0x81, []) ∧
  decode [0x10, 0x80] = .ok (.driveM1 0x80, []) ∧
  decode [0x22, 0x9C, 0x31] = .ok (.setSerialTimeout 12700, []) ∧
  decode [0x23, 0x00, 0xC2, 0x01, 0x00] = .ok (.setBaudRate 115200, []) ∧
  decode [0x33, 0x00, 0x00, 0x80, 0x3F] = .ok (.ratioToValue 0x3F800000, []) ∧
  decode [0x30, 0x05, 0x00, 0x80, 0x81, 0x04, 0x07, 0x09] = .ok (.checksum [0x80, 0x81, 0x04, 0x07, 0x09], [])

/-- R85, R215: each of the 240 unassigned opcode bytes is a whole request, answered `04 00` with no other effect; the byte
after it begins the next request. -/
def Obligations.UnassignedOpcodesAnswerUnknown : Prop :=
  (∀ (op : Byte) (q : List Byte) (s : State),
    (op.toNat = 0 ∨ 0x02 ≤ op.toNat ∧ op.toNat ≤ 0x0F ∨ 0x14 ≤ op.toNat ∧ op.toNat ≤ 0x1F ∨
      0x26 ≤ op.toNat ∧ op.toNat ≤ 0x2F ∨ 0x35 ≤ op.toNat) →
    decode (op :: q) = .ok (.unassigned op, q) ∧
      exec (.unassigned op) s = .next (responding [0x04, 0x00] s)) ∧
  ((List.range 256).filter fun n => decide (BitVec.ofNat 8 n ∉ assignedOpcodes)).length = 240

/-! ### A step, seen at the request port -/

/-- When the bytes accepted so far and the next byte presented are a request, the step runs it; when they are not yet one, the
step accepts the byte and the block goes on receiving. The model's step adds the reset input's clock (log 9) and takes the
byte from the port. -/
def Obligations.StepRunsDecodedRequest : Prop :=
  ∀ (s : State) (q rest : List Byte) (b : Byte),
    resetAsserted s = false → acceptedBytes s.phase = some q → s.reqPort = b :: rest →
    (∀ i, decode (q ++ [b]) = .ok (i, []) → step s = exec i { clockReset s with reqPort := rest }) ∧
    (∀ e op bytes, q ++ [b] = op :: bytes → decode (q ++ [b]) = .error e →
      step s = .next { clockReset s with phase := .receiving op bytes, reqPort := rest })

/-- `withFetchWord` puts a request where the very next step runs it (the model's own convention, log 13). -/
def Obligations.TableWordRunsNext : Prop :=
  ∀ (s : State) (nbits w : Nat), ∃ i, decodeTableWord nbits w = some i ∧ i.wellFormed = true ∧
    step (s.withFetchWord nbits w) = exec i s

/-- R38: a byte leaves the request port only while the block is Idle or Receiving, one at a time and in order. -/
def Obligations.RequestBytesAcceptedInOrder : Prop :=
  ∀ s t : State, step s = .next t →
    t.reqPort = s.reqPort ∨
      ((s.phase = .idle ∨ ∃ op bytes, s.phase = .receiving op bytes) ∧ ∃ b, s.reqPort = b :: t.reqPort)

/-- A request presented to an idle block is run after as many steps as it has bytes, and the next request's bytes are still
at the port. -/
def Obligations.RequestRunsWhenReceived : Prop :=
  ∀ (i : Instr) (s : State) (rest : List Byte),
    i.wellFormed = true → s.phase = .idle → s.resetLine = [] → s.reqPort = encode i ++ rest →
    runSteps (encode i).length s = exec i { s with reqPort := rest }

/-! ### Frame requests (42_config_commands.md, 43_motor_commands.md) -/

/-- R171: SET_ADDRESS stores any value and answers `00 00`; it offers nothing. -/
def Obligations.SetAddressStoresOperand : Prop :=
  ∀ (a : Byte) (s : State), exec (.setAddress a) s = .next (responding [0x00, 0x00] { s with addr := a })

/-- The request after SET_ADDRESS runs with the new address, with no delay, and a frame it offers carries it, as the spec
derives from R31 and R171 (its R281). -/
def Obligations.SetAddressActsOnNextRequest : Prop :=
  ∀ (a : Byte) (i : Instr) (s : State) (n : Nat) (rest : List Byte),
    i.wellFormed = true → s.phase = .idle → s.resetLine = [] → s.hostReady = n + 2 →
    s.reqPort = 0x01 :: a :: (encode i ++ rest) →
    runSteps (4 + (encode i).length) s =
      exec i { s with addr := a, reqPort := rest, hostReady := n, taken := s.taken ++ [0x00, 0x00] } ∧
    ∀ t op f, runSteps (4 + (encode i).length) s = .next t → t.phase = .waitWrite op f → f.b0 = a

/-- R201 to R204: the four motor commands offer the frames of the split-by-sign encoding, and conclude as R170 says; what is on
the line after the transport's answer, and that nothing is before it, is the model's choice (logs 7, 20). -/
def Obligations.MotorCommandsSplitBySign : Prop :=
  ∀ a : Byte,
    offersMotorFrame (.driveM1 a) 0x10 0 1 a.toInt ∧ offersMotorFrame (.driveM2 a) 0x11 4 5 a.toInt ∧
    offersMotorFrame (.driveMixed a) 0x12 8 9 a.toInt ∧ offersMotorFrame (.turnMixed a) 0x13 10 11 a.toInt ∧
    ∀ op f, op ∈ [0x10, 0x11, 0x12, 0x13] → writeConcludes op f

/-- The laws of the motor encoding, as the spec derives them from R200 (its R205). -/
def Obligations.MotorEncodingLaws : Prop :=
  ∀ (fwd rev : Byte), fwd ≠ rev →
    (∀ v : Byte, (motor fwd rev v.toInt).2.toNat ≤ 127) ∧
    motor fwd rev 0 = (fwd, 0) ∧
    motor fwd rev (-128) = (rev, 127) ∧ motor fwd rev (-127) = (rev, 127) ∧
    (∀ v w : Byte, v ≠ w → ¬(v.toInt ≤ -127 ∧ w.toInt ≤ -127) → motor fwd rev v.toInt ≠ motor fwd rev w.toInt) ∧
    (∀ v : Byte, 0 ≤ v.toInt → min 127 v.toInt = v.toInt ∧ (motor fwd rev v.toInt).2 = v)

/-- R172, R173: the voltage commands write their operand unchanged as the data byte, and conclude as R170 says. The codes 2 and
3 are UNVERIFIED (log 12); what is on the line and when is the model's choice (logs 7, 20). -/
def Obligations.VoltageCommandsWriteOperand : Prop :=
  ∀ (a : Byte) (s : State),
    exec (.setMinVoltage a) s = .next (offering 0x20 2 a s) ∧
    exec (.setMaxVoltage a) s = .next (offering 0x21 3 a s) ∧
    ∀ op f, op ∈ [0x20, 0x21] → writeConcludes op f

/-- R174: SET_SERIAL_TIMEOUT rejects more than 12700 ms and offers nothing; else 1..99 ms count as 100 ms, and the data byte is
`map_z(0, 12700, 0, 127, m)`. It concludes as R170 says; what is on the line and when is the model's choice (logs 7, 20). -/
def Obligations.SerialTimeoutMapsMilliseconds : Prop :=
  (∀ (a : Word16) (s : State),
    (12700 < a.toNat → exec (.setSerialTimeout a) s = .next (responding [0x02, 0x00] s)) ∧
    (a.toNat ≤ 12700 → ∃ d : Byte,
      (d.toNat : Int) = Int.tdiv (127 * (if 1 ≤ a.toNat ∧ a.toNat ≤ 99 then 100 else a.toNat)) 12700 ∧
      exec (.setSerialTimeout a) s = .next (offering 0x22 14 d s))) ∧
  ∀ f, writeConcludes 0x22 f

/-- The data byte of an accepted timeout is in tenths of a second, as the spec derives from R174 (its R175): 0 for 0 ms, 1 for
1..99 ms, and the whole tenths from 100 ms on; so it is at most 127. -/
def Obligations.TimeoutDataInTenths : Prop :=
  ∀ a : Word16, a.toNat ≤ 12700 →
    (a.toNat = 0 → timeoutData a = 0) ∧
    (1 ≤ a.toNat → a.toNat ≤ 99 → timeoutData a = 1) ∧
    (100 ≤ a.toNat → (timeoutData a).toNat = a.toNat / 100) ∧
    (timeoutData a).toNat ≤ 127

/-- R176: SET_BAUD_RATE takes five rates, offers their code, then reconfigures the transport; any other rate is rejected with
nothing offered. What is on the line, which rate the transport is at after `Err`, and when either changes, is the model's choice
(logs 7, 8, 20). -/
def Obligations.BaudRateFiveRates : Prop :=
  ∀ a : Word32,
    (∀ d : Byte, (a, d) ∈ [(2400, 1), (9600, 2), (19200, 3), (38400, 4), ((115200 : Word32), (5 : Byte))] →
      (∀ s, exec (.setBaudRate a) s = .next (offering 0x23 15 d s)) ∧ baudConcludes d a) ∧
    (a ∉ [2400, 9600, 19200, 38400, (115200 : Word32)] →
      ∀ s, exec (.setBaudRate a) s = .next (responding [0x02, 0x00] s))

/-- R177, R178: SET_RAMPING and SET_DEADBAND map 0..255 linearly to 0..80 and to 0..127, and conclude as R170 says; what is
on the line and when is the model's choice (logs 7, 20). -/
def Obligations.RampingAndDeadbandMapLinearly : Prop :=
  (∀ (a : Byte) (s : State),
    (∃ d : Byte, d.toNat = 80 * a.toNat / 255 ∧ exec (.setRamping a) s = .next (offering 0x24 16 d s)) ∧
    (∃ d : Byte, d.toNat = 127 * a.toNat / 255 ∧ exec (.setDeadband a) s = .next (offering 0x25 17 d s))) ∧
  ∀ op f, op ∈ [0x24, 0x25] → writeConcludes op f

/-- R16: the four bytes of a frame, the checksum added exactly. -/
def Obligations.FrameBytes : Prop :=
  ∀ addr c d : Byte,
    (frame addr c d).bytes = [addr, c, d, BitVec.ofNat 8 ((addr.toNat + c.toNat + d.toNat) &&& 0x7F)]

/-- The whole of a successful SET_BAUD_RATE, from its first byte to the response taken: one frame, then one reconfiguration,
then `00 00` (R170, R176). That `Ok` puts the whole frame on the line, in the step of the answer, is the model's choice (logs 7,
20). -/
def Obligations.BaudRateRunsWhole : Prop :=
  ∀ (a : Word32) (d : Byte) (s : State) (n : Nat) (rest : List Byte) (wa : List WriteAnswer) (ba : List BaudAnswer),
    (a, d) ∈ [(2400, 1), (9600, 2), (19200, 3), (38400, 4), ((115200 : Word32), (5 : Byte))] →
    s.phase = .idle → s.resetLine = [] → s.reqPort = encode (.setBaudRate a) ++ rest → s.hostReady = n + 2 →
    s.writeAnswers = .ok :: wa → s.baudAnswers = .ok :: ba →
    reaches 9 s { s with
      reqPort := rest
      hostReady := n
      taken := s.taken ++ [0x00, 0x00]
      offered := s.offered ++ [.write (wireFrame s.addr 15 d), .setBaud a]
      writeAnswers := wa
      baudAnswers := ba
      line := s.line ++ (wireFrame s.addr 15 d).bytes
      lineRate := a }

/-! ### Checksum (41_checksum.md) -/

/-- R150, R151: CHECKSUM answers the sum of its bytes, modulo 128, whatever they are and however many. -/
def Obligations.ChecksumAnswersSum : Prop :=
  ∀ (data : List Byte) (s : State), ∃ c : Byte,
    c.toNat = (data.map BitVec.toNat).sum % 128 ∧ exec (.checksum data) s = .next (responding [0x00, 0x00, c] s)

/-- The laws of `ck7`, as the spec derives them from R150 (its R153): the checksum is insensitive to order,
incremental, blind to bit 7, and unchanged by zero bytes. -/
def Obligations.ChecksumLaws : Prop :=
  (∀ xs ys : List Byte, xs.Perm ys → ck7 xs = ck7 ys) ∧
  (∀ xs ys : List Byte, (ck7 (xs ++ ys)).toNat = ((ck7 xs).toNat + (ck7 ys).toNat) % 128) ∧
  (∀ xs : List Byte, xs.foldl (fun sum x => BitVec.ofNat 8 ((sum.toNat + x.toNat) % 128)) 0 = ck7 xs) ∧
  (∀ xs : List Byte, ck7 (xs.map (· &&& 0x7F)) = ck7 xs) ∧
  (∀ xs ys : List Byte, ck7 (xs ++ 0x00 :: ys) = ck7 (xs ++ ys))

/-! ### Numeric mapping (40_numeric_mapping.md) -/

/-- R120, R121: MAP_RANGE_I computes the affine map exactly, the quotient rounded toward zero (R11), and answers it, or
`02 00` if the from-range is degenerate or the result is no `i32`. -/
def Obligations.MapRangeIExact : Prop :=
  ∀ (fl fh tl th v : Word32) (s : State),
    let num := (v.toInt - fl.toInt) * (th.toInt - tl.toInt)
    let den := fh.toInt - fl.toInt
    let r := tl.toInt + num.sign * den.sign * ((num.natAbs / den.natAbs : Nat) : Int)
    (fh.toInt = fl.toInt → exec (.mapRangeI fl fh tl th v) s = .next (responding [0x02, 0x00] s)) ∧
    (fh.toInt ≠ fl.toInt → -2 ^ 31 ≤ r ∧ r ≤ 2 ^ 31 - 1 →
      ∃ r0 r1 r2 r3 : Byte, (r3 ++ r2 ++ r1 ++ r0).toInt = r ∧
        exec (.mapRangeI fl fh tl th v) s = .next (responding [0x00, 0x00, r0, r1, r2, r3] s)) ∧
    (fh.toInt ≠ fl.toInt → ¬(-2 ^ 31 ≤ r ∧ r ≤ 2 ^ 31 - 1) →
      exec (.mapRangeI fl fh tl th v) s = .next (responding [0x02, 0x00] s))

/-- The laws of `map_z`, as the spec derives them from R120 (its R122), on an increasing from-range and a
non-decreasing to-range. -/
def Obligations.MapZLaws : Prop :=
  (∀ fl fh tl th : Int, fl < fh → tl ≤ th →
    mapZ fl fh tl th fl = tl ∧ mapZ fl fh tl th fh = th ∧
    (∀ v, fl ≤ v → v ≤ fh → tl ≤ mapZ fl fh tl th v ∧ mapZ fl fh tl th v ≤ th) ∧
    (∀ v w, v ≤ w → mapZ fl fh tl th v ≤ mapZ fl fh tl th w) ∧
    (∀ v, fl ≤ v → mapZ fl fh tl th v = tl + Int.fdiv ((v - fl) * (th - tl)) (fh - fl))) ∧
  mapZ (-128) 127 204 409 (-128) = 204 ∧ mapZ (-128) 127 204 409 127 = 409 ∧ mapZ (-128) 127 204 409 0 = 306

/-- R12 `FLOAT_FMT`: on finite operands each binary32 primitive is the exact result rounded once, to nearest and to even; an
exact zero sum or difference has the sign IEEE 754 gives it. The semantics of binary32 are PRESUMED (log 11). -/
def Obligations.RoundingIsNearestEven : Prop :=
  (∀ (neg : Bool) (num den : Nat), 0 < den → correctlyRounded neg num den (fpRound neg num den)) ∧
  (∀ (a b : Bool) (m n : Nat),
    let sum := signedMag a m + signedMag b n
    let difference := signedMag a m - signedMag b n
    (sum ≠ 0 → correctlyRounded (decide (sum < 0)) sum.natAbs 1 (fadd (.fin a m) (.fin b n))) ∧
    (sum = 0 → fadd (.fin a m) (.fin b n) = .fin (a && b) 0) ∧
    (difference ≠ 0 → correctlyRounded (decide (difference < 0)) difference.natAbs 1 (fsub (.fin a m) (.fin b n))) ∧
    (difference = 0 → fsub (.fin a m) (.fin b n) = .fin (a && !b) 0) ∧
    correctlyRounded (a != b) (m * n) (2 ^ 149) (fmul (.fin a m) (.fin b n)) ∧
    (n ≠ 0 → correctlyRounded (a != b) (m * 2 ^ 149) n (fdiv (.fin a m) (.fin b n)))) ∧
  ∀ v : Int, correctlyRounded (decide (v < 0)) (v.natAbs * 2 ^ 149) 1 (fpOfInt v)

/-- R82: the value of a bit pattern from its sign, exponent and fraction, a magnitude counting units of 2^-149: normal,
subnormal, infinite or NaN. Taking a pattern that is no NaN to its value and back gives it again, and the NaN draws are the NaN
patterns. The layout is PRESUMED (log 11), the draw is log 5. -/
def Obligations.FloatBitsRoundTrip : Prop :=
  (∀ (sign : BitVec 1) (e : BitVec 8) (f : BitVec 23),
    (e = 255 → f = 0 → fpOfBits (sign ++ e ++ f) = .inf (decide (sign = 1))) ∧
    (e = 255 → f ≠ 0 → fpOfBits (sign ++ e ++ f) = .nan) ∧
    (e ≠ 255 → ∃ m : Nat, fpOfBits (sign ++ e ++ f) = .fin (decide (sign = 1)) m ∧
      (m : ℚ) * 2 ^ (-149 : ℤ) =
        if e = 0 then (f.toNat : ℚ) / 2 ^ 23 * 2 ^ (-126 : ℤ)
        else (1 + (f.toNat : ℚ) / 2 ^ 23) * 2 ^ ((e.toNat : ℤ) - 127))) ∧
  (∀ (draw : Bool × Fin 8388607) (b : Word32), fpOfBits b ≠ .nan → fpToBits draw (fpOfBits b) = b) ∧
  (∀ b : Word32, fpOfBits b = .nan ↔ ∃ draw, nanBits draw = b)

/-- R125, R126: MAP_RANGE_F refuses a from-range whose difference is a zero; else it answers the map's value, evaluated in the
formula's order, and where that is a NaN some NaN pattern, taking one draw. -/
def Obligations.MapRangeFAnswers : Prop :=
  ∀ (fl fh tl th v : Word32) (s : State),
    let t1 := fsub (fpOfBits v) (fpOfBits fl)
    let t2 := fsub (fpOfBits th) (fpOfBits tl)
    let t3 := fmul t1 t2
    let t4 := fsub (fpOfBits fh) (fpOfBits fl)
    let t5 := fdiv t3 t4
    let r := fadd (fpOfBits tl) t5
    ((t4 = .fin false 0 ∨ t4 = .fin true 0) →
      exec (.mapRangeF fl fh tl th v) s = .next (responding [0x02, 0x00] s)) ∧
    (¬(t4 = .fin false 0 ∨ t4 = .fin true 0) →
      ∃ r0 r1 r2 r3 : Byte, fpOfBits (r3 ++ r2 ++ r1 ++ r0) = r ∧
        exec (.mapRangeF fl fh tl th v) s = .next (responding [0x00, 0x00, r0, r1, r2, r3]
          { s with nanDraws := if r = .nan then s.nanDraws + 1 else s.nanDraws }))

/-- R126: for finite ends, the from-range of MAP_RANGE_F is refused exactly where they are numerically equal, the two zeros
counted equal. -/
def Obligations.FloatRangeDegenerateWhenEqual : Prop :=
  ∀ (fl fh : Word32) (a b : Bool) (m n : Nat), fpOfBits fl = .fin a m → fpOfBits fh = .fin b n →
    (fpIsZero (fsub (fpOfBits fh) (fpOfBits fl)) = true ↔ signedMag a m = signedMag b n)

/-- R130: RATIO_TO_VALUE refuses what is not in [-1.0, 1.0], NaN and the infinities with it; else it answers the product with
2047.0 converted by RATIO_CONV, whichever it is, within [-2047, 2047]. -/
def Obligations.RatioToValueAnswers : Prop :=
  ∀ (a : Word32) (s : State),
    (∀ neg m, fpOfBits a = .fin neg m → m ≤ 2 ^ 149 →
      ∃ r : Int, ∃ r0 r1 r2 r3 : Byte,
        (match Config.ratioConv, fmul (fpOfBits a) (fpOfInt 2047) with
          | .trunc, .fin pn p => r = signedMag pn (p / 2 ^ 149)
          | .rne, .fin pn p => r = signedMag pn (rneDiv p (2 ^ 149))
          | _, _ => False) ∧
        -2047 ≤ r ∧ r ≤ 2047 ∧ (r3 ++ r2 ++ r1 ++ r0).toInt = r ∧
        exec (.ratioToValue a) s = .next (responding [0x00, 0x00, r0, r1, r2, r3] s)) ∧
    ((∀ neg m, fpOfBits a = .fin neg m → 2 ^ 149 < m) →
      exec (.ratioToValue a) s = .next (responding [0x02, 0x00] s))

/-- The clamp of RATIO_TO_VALUE never changes a value, under either conversion, as the spec derives from R130 and R12 (its
R131). -/
def Obligations.ClampNeverActs : Prop :=
  ∀ (a : Fp), ratioInRange a = true →
    (∃ neg m, fmul a (fpOfInt 2047) = .fin neg m ∧ m ≤ 2047 * 2 ^ 149) ∧
    ∀ conv, -2047 ≤ fconv conv (fmul a (fpOfInt 2047)) ∧ fconv conv (fmul a (fpOfInt 2047)) ≤ 2047

/-- R135: VALUE_TO_RATIO accepts every `i32` and answers the finite quotient of its binary32 value by 2047.0. -/
def Obligations.ValueToRatioAnswers : Prop :=
  ∀ (a : Word32) (s : State), ∃ (neg : Bool) (m : Nat) (r0 r1 r2 r3 : Byte),
    fdiv (fpOfInt a.toInt) (fpOfInt 2047) = .fin neg m ∧ fpOfBits (r3 ++ r2 ++ r1 ++ r0) = .fin neg m ∧
    exec (.valueToRatio a) s = .next (responding [0x00, 0x00, r0, r1, r2, r3] s)

/-- R135: VALUE_TO_RATIO followed by RATIO_TO_VALUE returns every value in [-2047, 2047], under either RATIO_CONV. -/
def Obligations.RatioRoundTrip : Prop :=
  (∀ v : Int, -2047 ≤ v → v ≤ 2047 → ∀ conv draw,
    ratioInRange (fpOfBits (fpToBits draw (valueRatio v))) = true ∧
    ratioValue conv (fpOfBits (fpToBits draw (valueRatio v))) = v) ∧
  (∀ (a : Word32) (s : State), -2047 ≤ a.toInt → a.toInt ≤ 2047 → ∃ r0 r1 r2 r3 : Byte,
    exec (.valueToRatio a) s = .next (responding [0x00, 0x00, r0, r1, r2, r3] s) ∧
    exec (.ratioToValue (r3 ++ r2 ++ r1 ++ r0)) s = .next (responding ([0x00, 0x00] ++ bytes32 a) s))

/-! ### Responses and errors (30_encoding.md, 60_exceptions.md) -/

/-- R96: the layout of every response, from the request that gives it and, for a request that waited, from the transport's
answer. -/
def Obligations.ResponseLayouts : Prop :=
  (∀ (i : Instr) (s t : State) (r : List Byte), exec i s = .next t → t.phase = .responding r → layoutFits i r) ∧
  (∀ (s t : State) (r : List Byte), ((∃ op f, s.phase = .waitWrite op f) ∨ ∃ rate, s.phase = .waitBaud rate) →
    step s = .next t → t.phase = .responding r → r = [0x00, 0x00] ∨ ∃ sub, r = [0x01, sub])

/-- R233: INVALID_INPUT is the answer in exactly the listed cases, before any transport operation. -/
def Obligations.InvalidInputExactly : Prop :=
  (∀ (i : Instr) (s : State), ∃ t, exec i s = .next t ∧
    ((∃ r, t.phase = .responding (0x02 :: r)) ↔ refusesOperands i) ∧
    (refusesOperands i → t = responding [0x02, 0x00] s)) ∧
  (∀ (s t : State) (r : List Byte), ((∃ op f, s.phase = .waitWrite op f) ∨ ∃ rate, s.phase = .waitBaud rate) →
    step s = .next t → t.phase ≠ .responding (0x02 :: r))

/-- R235: UNKNOWN is the answer to an unassigned opcode byte and to nothing else. -/
def Obligations.UnknownExactly : Prop :=
  (∀ (q left : List Byte) (i : Instr) (s : State), decode q = .ok (i, left) → ∃ t, exec i s = .next t ∧
    ((∃ r, t.phase = .responding (0x04 :: r)) ↔ ∃ op, q.head? = some op ∧ op ∉ assignedOpcodes)) ∧
  (∀ (s t : State) (r : List Byte), ((∃ op f, s.phase = .waitWrite op f) ∨ ∃ rate, s.phase = .waitBaud rate) →
    step s = .next t → t.phase ≠ .responding (0x04 :: r))

/-- A response that the host stands ready to take is taken in order, a byte a step, and the block is then Idle (R39, R240). -/
def Obligations.ResponseDelivered : Prop :=
  ∀ (response : List Byte) (n : Nat) (s : State),
    response ≠ [] → s.phase = .responding response → s.resetLine = [] → s.hostReady = n + response.length →
    reaches response.length s { s with phase := .idle, hostReady := n, taken := s.taken ++ response }

/-- A host that never takes the response leaves the block waiting, and it accepts no request byte (R39, R250). -/
def Obligations.UntakenResponseWaits : Prop :=
  ∀ (b : Byte) (rest : List Byte) (n : Nat) (s : State),
    s.phase = .responding (b :: rest) → s.resetLine = [] → s.hostReady = 0 → reaches n s s

/-- Every request gets exactly one response, given a transport that answers, a host that takes bytes, and no reset (the
fairness of R285): the one running it begins, or, where it offers a frame, the one the transport's answers give. -/
def Obligations.EveryRequestGetsOneResponse : Prop :=
  ∀ (i : Instr) (s : State) (rest : List Byte) (wa : WriteAnswer) (was : List WriteAnswer) (ba : BaudAnswer)
      (bas : List BaudAnswer),
    i.wellFormed = true → s.phase = .idle → s.resetLine = [] → s.reqPort = encode i ++ rest → 6 ≤ s.hostReady →
    s.writeAnswers = wa :: was → s.baudAnswers = ba :: bas →
    ∃ n t response, n ≤ (encode i).length + 6 ∧ reaches n s t ∧ t.phase = .idle ∧ t.reqPort = rest ∧
      legalResponse response = true ∧ t.taken = s.taken ++ response ∧ t.hostReady + response.length = s.hostReady ∧
      ∃ u, exec i { s with reqPort := rest } = .next u ∧
        (u.phase = .responding response ∨
          ∃ op f, u.phase = .waitWrite op f ∧ response = responseToAnswers i.opcode wa ba)

/-- No state stops the machine: every step answers a next state (R240; no trap, no fault, no refusal). -/
def Obligations.EveryStepAnswersNext : Prop := ∀ s : State, ∃ t, step s = .next t

/-! ### Invariants (10_state.md, 20_memory.md) -/

/-- R44: the reset values. ADDR is DEFAULT_ADDRESS, kept a parameter; in the phase Idle there are no partial request bytes and
no pending response; the transport's rate is not reset by the block. -/
def Obligations.ResetValues : Prop :=
  (State.reset.addr = Config.defaultAddress ∧ State.reset.phase = .idle) ∧
  ∀ s : State, resetAsserted s = true → (∀ r, s.phase ≠ .waitBaud r) →
    ∃ t, step s = .next t ∧ t.addr = Config.defaultAddress ∧ t.phase = .idle ∧ t.lineRate = s.lineRate

/-- The machine right after reset is legal and has offered nothing; that the history of what was offered is empty there is the
model's choice (log 14). -/
def Obligations.ResetStateIsLegal : Prop :=
  Legal State.reset ∧ State.reset.offered = [] ∧ BaudFollowsFrame State.reset.offered

/-- Every step from a legal state gives a legal state: every frame offered has an emitted code, data at most 127 but for the
voltage commands, and the right checksum; every rate offered is one of the five; what waits is what was offered last; and
every response is one of R96 with a status of R230. -/
def Obligations.StepKeepsLegal : Prop := ∀ s t : State, Legal s → step s = .next t → Legal t

/-- Every step from a legal state keeps every TxSetBaud directly after the frame that announces its rate (R176; the spec
derives the order in its R70). -/
def Obligations.StepKeepsBaudAfterFrame : Prop :=
  ∀ s t : State, Legal s → BaudFollowsFrame s.offered → step s = .next t → BaudFollowsFrame t.offered

/-- A step offers at most one transport operation, and only when none is outstanding, or in the step in which the one
outstanding was answered `Ok`, as the spec derives from R45 and R65 (its R68). -/
def Obligations.OneTransportOperationOutstanding : Prop :=
  ∀ s t : State, step s = .next t →
    t.offered = s.offered ∨
      ∃ o, t.offered = s.offered ++ [o] ∧
        (s.phase = .idle ∨ (∃ op bytes, s.phase = .receiving op bytes) ∨
          ∃ op f, s.phase = .waitWrite op f ∧ s.writeAnswers = .ok :: t.writeAnswers)

/-- R31: only SET_ADDRESS and reset change ADDR, to the operand and to DEFAULT_ADDRESS. -/
def Obligations.AddressChangesOnlyBySetAddressOrReset : Prop :=
  ∀ s t : State, step s = .next t → t.addr ≠ s.addr →
    (resetAsserted s = true ∧ t.addr = Config.defaultAddress) ∨
      ∃ q b rest a left, acceptedBytes s.phase = some q ∧ s.reqPort = b :: rest ∧
        decode (q ++ [b]) = .ok (.setAddress a, left) ∧ t.addr = a

/-- R43: the transport's rate changes only to a rate offered by TxSetBaud. That a failed or abandoned TxSetBaud leaves the old
rate or the offered one and no third, and when it changes, is the model's choice (logs 8, 20, 21). -/
def Obligations.LineRateChangesOnlyByTxSetBaud : Prop :=
  ∀ s t : State, step s = .next t → t.lineRate ≠ s.lineRate → s.phase = .waitBaud t.lineRate

/-- R34, R35, R66: what a request offers and answers depends on the state only through ADDR, and for MAP_RANGE_F the NaN draws
(log 5): two equal frame requests with no SET_ADDRESS between them offer equal frames. -/
def Obligations.RequestReadsOnlyAddress : Prop :=
  ∀ (i : Instr) (s t : State), s.addr = t.addr →
    ((∃ fl fh tl th v, i = .mapRangeF fl fh tl th v) → s.nanDraws = t.nanDraws) →
    ∃ (p : Phase) (ops : List TxOp) (s' t' : State), exec i s = .next s' ∧ exec i t = .next t' ∧
      s'.phase = p ∧ t'.phase = p ∧ s'.offered = s.offered ++ ops ∧ t'.offered = t.offered ++ ops ∧
      s'.addr = t'.addr

/-- R31: no run shows ADDR to the host: two runs that start alike but for the address stay so, and the host takes the same
bytes. -/
def Obligations.HostCannotReadAddress : Prop :=
  ∀ (n : Nat) (s t s' t' : State), alikeButAddr s t → reaches n s s' → reaches n t t' →
    alikeButAddr s' t' ∧ s'.taken = t'.taken

/-! ### Waiting and reset (70_reset_and_hazards.md) -/

/-- R284: a transport that never answers leaves the block waiting for ever, and only reset ends the wait. That the line and the
rate stay meanwhile is the model's choice (log 20). -/
def Obligations.UnansweredTransportWaitsForReset : Prop :=
  ∀ s : State,
    ((∃ op f, s.phase = .waitWrite op f ∧ s.writeAnswers = []) ∨ ∃ r, s.phase = .waitBaud r ∧ s.baudAnswers = []) →
    (s.resetLine = [] → ∀ n, reaches n s s) ∧
    (resetAsserted s = true → ∃ t, step s = .next t ∧ t.phase = .idle) ∧
    ∀ t, step s = .next t → t.phase ≠ s.phase → resetAsserted s = true

/-- R270, R271: reset from any state: ADDR is DEFAULT_ADDRESS, the block is Idle, nothing is offered or emitted, and what the
host has not handed over stays with it; only a transport operation in flight may still have its effect on the line or the
rate, and that in this step, which is the model's choice (log 21). -/
def Obligations.ResetFromAnyState : Prop :=
  ∀ s : State, resetAsserted s = true → ∃ t, step s = .next t ∧
    t.addr = Config.defaultAddress ∧ t.phase = .idle ∧ t.offered = s.offered ∧ t.taken = s.taken ∧
    t.reqPort = s.reqPort ∧ t.hostReady = s.hostReady ∧ t.nanDraws = s.nanDraws ∧
    (t.line = s.line ∨ ∃ op f k, s.phase = .waitWrite op f ∧ k ≤ 4 ∧ t.line = s.line ++ f.bytes.take k) ∧
    (t.lineRate = s.lineRate ∨ s.phase = .waitBaud t.lineRate)

/-- R271: every outcome the spec admits for an operation in flight at reset is one the model admits: each prefix of the frame
on the line, and the rate changed or not; that it happens in the reset step is the model's choice (log 21). -/
def Obligations.ResetAdmitsEveryOutcome : Prop :=
  (∀ (s : State) (op : Byte) (f : Frame) (k : Nat), resetAsserted s = true → s.phase = .waitWrite op f → k ≤ 4 →
    ∃ answers t, step { s with writeAnswers := answers } = .next t ∧ t.line = s.line ++ f.bytes.take k ∧ t.phase = .idle) ∧
  (∀ (s : State) (r rate : Word32), resetAsserted s = true → s.phase = .waitBaud r → rate = r ∨ rate = s.lineRate →
    ∃ answers t, step { s with baudAnswers := answers } = .next t ∧ t.lineRate = rate ∧ t.phase = .idle)

/-- R272: the first byte the block accepts after reset is an opcode byte, whatever was in progress before. -/
def Obligations.FirstByteAfterResetIsOpcode : Prop :=
  ∀ (s : State) (b : Byte) (rest : List Byte), s.resetLine = [true] → s.reqPort = b :: rest →
    ∃ t, step s = .next t ∧ t.phase = .idle ∧
      (∀ i, decode [b] = .ok (i, []) → step t = exec i { t with reqPort := rest }) ∧
      (∀ e, decode [b] = .error e → step t = .next { t with phase := .receiving b [], reqPort := rest })

/-! ### The binary32 primitives and the ports, case by case (00_scope.md R12, 10_state.md R39, 20_memory.md R65) -/

/-- R12: what the binary32 primitives and comparisons answer on NaN, on infinities and on a zero divisor, as IEEE 754 says; with
`RoundingIsNearestEven` every case of every primitive. PRESUMED (log 11). -/
def Obligations.FloatSpecialOperands : Prop :=
  (∀ x : Fp,
    fadd .nan x = .nan ∧ fadd x .nan = .nan ∧ fsub .nan x = .nan ∧ fsub x .nan = .nan ∧
    fmul .nan x = .nan ∧ fmul x .nan = .nan ∧ fdiv .nan x = .nan ∧ fdiv x .nan = .nan ∧
    fpLe .nan x = false ∧ fpLe x .nan = false) ∧
  (∀ a b : Bool,
    fadd (.inf a) (.inf b) = (if a = b then .inf a else .nan) ∧
    fsub (.inf a) (.inf b) = (if a = b then .nan else .inf a) ∧
    fmul (.inf a) (.inf b) = .inf (a != b) ∧ fdiv (.inf a) (.inf b) = .nan ∧
    (fpLe (.inf a) (.inf b) = true ↔ a = true ∨ b = false)) ∧
  (∀ (a b : Bool) (m : Nat),
    fadd (.inf a) (.fin b m) = .inf a ∧ fadd (.fin b m) (.inf a) = .inf a ∧
    fsub (.inf a) (.fin b m) = .inf a ∧ fsub (.fin b m) (.inf a) = .inf (!a) ∧
    (m ≠ 0 → fmul (.inf a) (.fin b m) = .inf (a != b) ∧ fmul (.fin b m) (.inf a) = .inf (b != a)) ∧
    fmul (.inf a) (.fin b 0) = .nan ∧ fmul (.fin b 0) (.inf a) = .nan ∧
    fdiv (.inf a) (.fin b m) = .inf (a != b) ∧ fdiv (.fin b m) (.inf a) = .fin (b != a) 0 ∧
    (m ≠ 0 → fdiv (.fin a m) (.fin b 0) = .inf (a != b)) ∧ fdiv (.fin a 0) (.fin b 0) = .nan ∧
    fpLe (.inf a) (.fin b m) = a ∧ fpLe (.fin b m) (.inf a) = !a) ∧
  (∀ (a b : Bool) (m n : Nat), fpLe (.fin a m) (.fin b n) = true ↔ signedMag a m ≤ signedMag b n) ∧
  ∀ x : Fp, fpIsZero x = true ↔ x = .fin false 0 ∨ x = .fin true 0

/-- R12 `fconv`: a finite value is converted to `Z` toward zero, or to the nearest whole number, the even one of two. -/
def Obligations.FloatToIntegerConversion : Prop :=
  ∀ (neg : Bool) (m : Nat),
    fconv .trunc (.fin neg m) = Int.tdiv (signedMag neg m) (2 ^ 149) ∧
    let error := fconv .rne (.fin neg m) * 2 ^ 149 - signedMag neg m
    2 * error.natAbs ≤ 2 ^ 149 ∧ (2 * error.natAbs = 2 ^ 149 → fconv .rne (.fin neg m) % 2 = 0)

/-- R39: response bytes are taken only in the phase Responding, one at a time and in order: the first byte of what is left, when
the host stands ready; the block is Idle after the last. -/
def Obligations.ResponseBytesTakenInOrder : Prop :=
  ∀ s t : State, step s = .next t →
    (t.taken = s.taken ∧ t.hostReady = s.hostReady) ∨
      (resetAsserted s = false ∧ ∃ b rest, s.phase = .responding (b :: rest) ∧ s.hostReady = t.hostReady + 1 ∧
        t.taken = s.taken ++ [b] ∧ (rest = [] → t.phase = .idle) ∧ (rest ≠ [] → t.phase = .responding rest))

/-- R65, R170: the transport's line grows only by a prefix of the frame that waits for the transport's answer, in the step that
ends the wait. That bytes reach it uncorrupted and in that step is the model's choice (logs 7, 20, 21). -/
def Obligations.LineGrowsOnlyByWaitingFrame : Prop :=
  ∀ s t : State, step s = .next t →
    t.line = s.line ∨
      ∃ op f k, s.phase = .waitWrite op f ∧ k ≤ 4 ∧ t.line = s.line ++ f.bytes.take k ∧ ∀ g, t.phase ≠ .waitWrite op g
end

