-- ==== Sys2Proof/Laws/Bytes.lean ====
section
/-! SUPPORT. Byte order: taking a word apart and putting it together again (20_memory.md R62). -/

namespace Sys2Proof.Machine

@[simp] theorem bytes16_length (v : Word16) : (bytes16 v).length = 2 := rfl

@[simp] theorem bytes32_length (v : Word32) : (bytes32 v).length = 4 := rfl

theorem append_toNat {m : Nat} (hi : BitVec m) (lo : Byte) : (hi ++ lo).toNat = lo.toNat + 256 * hi.toNat := by
  rw [BitVec.toNat_append, ← Nat.shiftLeft_add_eq_or_of_lt lo.isLt, Nat.shiftLeft_eq]
  omega

theorem byteAt_toNat {m : Nat} (v : BitVec m) (k : Nat) : (v.extractLsb' k 8).toNat = v.toNat / 2 ^ k % 256 := by
  rw [BitVec.extractLsb'_toNat, Nat.shiftRight_eq_div_pow]

theorem le16_toNat (a b : Byte) : (le16 a b).toNat = a.toNat + 256 * b.toNat := append_toNat b a

theorem le32_toNat (a b c d : Byte) :
    (le32 a b c d).toNat = a.toNat + 256 * (b.toNat + 256 * (c.toNat + 256 * d.toNat)) := by
  unfold le32
  rw [append_toNat, append_toNat, append_toNat]

theorem le16_extract (v : Word16) : le16 (v.extractLsb' 0 8) (v.extractLsb' 8 8) = v := by
  apply BitVec.eq_of_toNat_eq
  have := v.isLt
  rw [le16_toNat, byteAt_toNat, byteAt_toNat]
  omega

theorem le32_extract (v : Word32) :
    le32 (v.extractLsb' 0 8) (v.extractLsb' 8 8) (v.extractLsb' 16 8) (v.extractLsb' 24 8) = v := by
  apply BitVec.eq_of_toNat_eq
  have := v.isLt
  rw [le32_toNat, byteAt_toNat, byteAt_toNat, byteAt_toNat, byteAt_toNat]
  omega

theorem bytes16_le16 (a b : Byte) : bytes16 (le16 a b) = [a, b] := by
  have ha := a.isLt
  have hb := b.isLt
  have h0 : (le16 a b).extractLsb' 0 8 = a := by
    apply BitVec.eq_of_toNat_eq; rw [byteAt_toNat, le16_toNat]; omega
  have h1 : (le16 a b).extractLsb' 8 8 = b := by
    apply BitVec.eq_of_toNat_eq; rw [byteAt_toNat, le16_toNat]; omega
  simp only [bytes16, h0, h1]

theorem bytes32_le32 (a b c d : Byte) : bytes32 (le32 a b c d) = [a, b, c, d] := by
  have ha := a.isLt
  have hb := b.isLt
  have hc := c.isLt
  have hd := d.isLt
  have h0 : (le32 a b c d).extractLsb' 0 8 = a := by
    apply BitVec.eq_of_toNat_eq; rw [byteAt_toNat, le32_toNat]; omega
  have h1 : (le32 a b c d).extractLsb' 8 8 = b := by
    apply BitVec.eq_of_toNat_eq; rw [byteAt_toNat, le32_toNat]; omega
  have h2 : (le32 a b c d).extractLsb' 16 8 = c := by
    apply BitVec.eq_of_toNat_eq; rw [byteAt_toNat, le32_toNat]; omega
  have h3 : (le32 a b c d).extractLsb' 24 8 = d := by
    apply BitVec.eq_of_toNat_eq; rw [byteAt_toNat, le32_toNat]; omega
  simp only [bytes32, h0, h1, h2, h3]

end Sys2Proof.Machine
end

