-- ==== Sys2Proof/Laws/Decode.lean ====
section
/-! SUPPORT. What decoding the operands of each format can do (30_encoding.md R81), said once, and the length of an encoded
request (R87). -/

namespace Sys2Proof

theorem decodeRQ8_cases {mk : Byte → Instr} {q rest : List Byte} {i : Instr} (h : decodeRQ8 mk q = .ok (i, rest)) :
    ∃ a, q = a :: rest ∧ i = mk a := by
  cases q with
  | nil => cases h
  | cons a r =>
    simp only [decodeRQ8, Except.ok.injEq, Prod.mk.injEq] at h
    exact ⟨a, by rw [h.2], h.1.symm⟩

theorem decodeRQ16_cases {mk : Word16 → Instr} {q rest : List Byte} {i : Instr} (h : decodeRQ16 mk q = .ok (i, rest)) :
    ∃ a, q = Machine.bytes16 a ++ rest ∧ i = mk a := by
  unfold decodeRQ16 at h
  split at h
  · rename_i a0 a1 r
    simp only [Except.ok.injEq, Prod.mk.injEq] at h
    exact ⟨_, by rw [Machine.bytes16_le16, ← h.2]; rfl, h.1.symm⟩
  · cases h

theorem decodeRQ32_cases {mk : Word32 → Instr} {q rest : List Byte} {i : Instr} (h : decodeRQ32 mk q = .ok (i, rest)) :
    ∃ a, q = Machine.bytes32 a ++ rest ∧ i = mk a := by
  unfold decodeRQ32 at h
  split at h
  · simp only [Except.ok.injEq, Prod.mk.injEq] at h
    exact ⟨_, by rw [Machine.bytes32_le32, ← h.2]; rfl, h.1.symm⟩
  · cases h

theorem decodeRQ5X32_cases {mk : Word32 → Word32 → Word32 → Word32 → Word32 → Instr} {q rest : List Byte} {i : Instr}
    (h : decodeRQ5X32 mk q = .ok (i, rest)) :
    ∃ a b c d e, q = Machine.bytes32 a ++ Machine.bytes32 b ++ Machine.bytes32 c ++ Machine.bytes32 d ++
      Machine.bytes32 e ++ rest ∧ i = mk a b c d e := by
  unfold decodeRQ5X32 at h
  split at h
  · simp only [Except.ok.injEq, Prod.mk.injEq] at h
    refine ⟨_, _, _, _, _, ?_, h.1.symm⟩
    simp only [Machine.bytes32_le32, ← h.2]
    rfl
  · cases h

theorem decodeRQV_cases {mk : List Byte → Instr} {q rest : List Byte} {i : Instr} (h : decodeRQV mk q = .ok (i, rest)) :
    ∃ n data, q = Machine.bytes16 n ++ data ++ rest ∧ data.length = n.toNat ∧ i = mk data := by
  unfold decodeRQV at h
  split at h
  · rename_i n0 n1 r
    split at h
    · rename_i hn
      simp only [Except.ok.injEq, Prod.mk.injEq] at h
      refine ⟨Machine.le16 n0 n1, r.take (Machine.le16 n0 n1).toNat, ?_, by simpa using hn, h.1.symm⟩
      rw [Machine.bytes16_le16, ← h.2]
      simp
    · cases h
  · cases h

@[simp] theorem decodeRQ8_cons (mk : Byte → Instr) (a : Byte) (rest : List Byte) :
    decodeRQ8 mk (a :: rest) = .ok (mk a, rest) := rfl

@[simp] theorem decodeRQ16_bytes (mk : Word16 → Instr) (a : Word16) (rest : List Byte) :
    decodeRQ16 mk (Machine.bytes16 a ++ rest) = .ok (mk a, rest) := by
  simp only [Machine.bytes16, List.cons_append, List.nil_append, decodeRQ16, Machine.le16_extract]

@[simp] theorem decodeRQ32_bytes (mk : Word32 → Instr) (a : Word32) (rest : List Byte) :
    decodeRQ32 mk (Machine.bytes32 a ++ rest) = .ok (mk a, rest) := by
  simp only [Machine.bytes32, List.cons_append, List.nil_append, decodeRQ32, Machine.le32_extract]

theorem decodeRQ5X32_bytes (mk : Word32 → Word32 → Word32 → Word32 → Word32 → Instr) (a b c d e : Word32)
    (rest : List Byte) :
    decodeRQ5X32 mk (Machine.bytes32 a ++ Machine.bytes32 b ++ Machine.bytes32 c ++ Machine.bytes32 d ++
      Machine.bytes32 e ++ rest) = .ok (mk a b c d e, rest) := by
  simp only [Machine.bytes32, List.cons_append, List.nil_append, decodeRQ5X32, Machine.le32_extract]

theorem decodeRQV_bytes (mk : List Byte → Instr) (n : Word16) (data rest : List Byte) (h : data.length = n.toNat) :
    decodeRQV mk (Machine.bytes16 n ++ data ++ rest) = .ok (mk data, rest) := by
  simp [Machine.bytes16, decodeRQV, Machine.le16_extract, ← h]

/-! ### Operands that are missing are truncated -/

theorem decodeRQ8_error {mk : Byte → Instr} {q : List Byte} {e : DecodeError} (h : decodeRQ8 mk q = .error e) :
    e = .truncated := by
  unfold decodeRQ8 at h
  split at h <;> simp_all

theorem decodeRQ16_error {mk : Word16 → Instr} {q : List Byte} {e : DecodeError} (h : decodeRQ16 mk q = .error e) :
    e = .truncated := by
  unfold decodeRQ16 at h
  split at h <;> simp_all

theorem decodeRQ32_error {mk : Word32 → Instr} {q : List Byte} {e : DecodeError} (h : decodeRQ32 mk q = .error e) :
    e = .truncated := by
  unfold decodeRQ32 at h
  split at h <;> simp_all

theorem decodeRQ5X32_error {mk : Word32 → Word32 → Word32 → Word32 → Word32 → Instr} {q : List Byte} {e : DecodeError}
    (h : decodeRQ5X32 mk q = .error e) : e = .truncated := by
  unfold decodeRQ5X32 at h
  split at h <;> simp_all

theorem decodeRQV_error {mk : List Byte → Instr} {q : List Byte} {e : DecodeError} (h : decodeRQV mk q = .error e) :
    e = .truncated := by
  unfold decodeRQV at h
  split at h
  · split at h <;> simp_all
  · simp_all

/-- Where there is an opcode byte, the decoder turns bytes away only because operand bytes are missing (R83, R87). -/
theorem decode_cons_error {op : Byte} {q : List Byte} {e : DecodeError} (h : decode (op :: q) = .error e) :
    e = .truncated := by
  replace h : decodeOperands op q = .error e := h
  unfold decodeOperands at h
  by_cases hSetAddress : op = opSetAddress
  · exact decodeRQ8_error (by rwa [if_pos hSetAddress] at h)
  rw [if_neg hSetAddress] at h
  by_cases hDriveM1 : op = opDriveM1
  · exact decodeRQ8_error (by rwa [if_pos hDriveM1] at h)
  rw [if_neg hDriveM1] at h
  by_cases hDriveM2 : op = opDriveM2
  · exact decodeRQ8_error (by rwa [if_pos hDriveM2] at h)
  rw [if_neg hDriveM2] at h
  by_cases hDriveMixed : op = opDriveMixed
  · exact decodeRQ8_error (by rwa [if_pos hDriveMixed] at h)
  rw [if_neg hDriveMixed] at h
  by_cases hTurnMixed : op = opTurnMixed
  · exact decodeRQ8_error (by rwa [if_pos hTurnMixed] at h)
  rw [if_neg hTurnMixed] at h
  by_cases hSetMinVoltage : op = opSetMinVoltage
  · exact decodeRQ8_error (by rwa [if_pos hSetMinVoltage] at h)
  rw [if_neg hSetMinVoltage] at h
  by_cases hSetMaxVoltage : op = opSetMaxVoltage
  · exact decodeRQ8_error (by rwa [if_pos hSetMaxVoltage] at h)
  rw [if_neg hSetMaxVoltage] at h
  by_cases hSetSerialTimeout : op = opSetSerialTimeout
  · exact decodeRQ16_error (by rwa [if_pos hSetSerialTimeout] at h)
  rw [if_neg hSetSerialTimeout] at h
  by_cases hSetBaudRate : op = opSetBaudRate
  · exact decodeRQ32_error (by rwa [if_pos hSetBaudRate] at h)
  rw [if_neg hSetBaudRate] at h
  by_cases hSetRamping : op = opSetRamping
  · exact decodeRQ8_error (by rwa [if_pos hSetRamping] at h)
  rw [if_neg hSetRamping] at h
  by_cases hSetDeadband : op = opSetDeadband
  · exact decodeRQ8_error (by rwa [if_pos hSetDeadband] at h)
  rw [if_neg hSetDeadband] at h
  by_cases hChecksum : op = opChecksum
  · exact decodeRQV_error (by rwa [if_pos hChecksum] at h)
  rw [if_neg hChecksum] at h
  by_cases hMapRangeI : op = opMapRangeI
  · exact decodeRQ5X32_error (by rwa [if_pos hMapRangeI] at h)
  rw [if_neg hMapRangeI] at h
  by_cases hMapRangeF : op = opMapRangeF
  · exact decodeRQ5X32_error (by rwa [if_pos hMapRangeF] at h)
  rw [if_neg hMapRangeF] at h
  by_cases hRatioToValue : op = opRatioToValue
  · exact decodeRQ32_error (by rwa [if_pos hRatioToValue] at h)
  rw [if_neg hRatioToValue] at h
  by_cases hValueToRatio : op = opValueToRatio
  · exact decodeRQ32_error (by rwa [if_pos hValueToRatio] at h)
  rw [if_neg hValueToRatio] at h
  cases h

theorem encode_ne_nil (i : Instr) : encode i ≠ [] := by simp [encode]

end Sys2Proof
end

