-- ==== Sys2Proof/Laws/State.lean ====
section
/-! SUPPORT. What each shared update of the state leaves in each field: one lemma a field, so that no proof unfolds a record
update. -/

namespace Sys2Proof.Machine

@[simp] theorem respond_addr (st : Status) (sub : Byte) (p : List Byte) (s : State) :
    (respond st sub p s).addr = s.addr := rfl
@[simp] theorem respond_phase (st : Status) (sub : Byte) (p : List Byte) (s : State) :
    (respond st sub p s).phase = .responding (statusByte st :: sub :: p) := rfl
@[simp] theorem respond_reqPort (st : Status) (sub : Byte) (p : List Byte) (s : State) :
    (respond st sub p s).reqPort = s.reqPort := rfl
@[simp] theorem respond_hostReady (st : Status) (sub : Byte) (p : List Byte) (s : State) :
    (respond st sub p s).hostReady = s.hostReady := rfl
@[simp] theorem respond_taken (st : Status) (sub : Byte) (p : List Byte) (s : State) :
    (respond st sub p s).taken = s.taken := rfl
@[simp] theorem respond_offered (st : Status) (sub : Byte) (p : List Byte) (s : State) :
    (respond st sub p s).offered = s.offered := rfl
@[simp] theorem respond_writeAnswers (st : Status) (sub : Byte) (p : List Byte) (s : State) :
    (respond st sub p s).writeAnswers = s.writeAnswers := rfl
@[simp] theorem respond_baudAnswers (st : Status) (sub : Byte) (p : List Byte) (s : State) :
    (respond st sub p s).baudAnswers = s.baudAnswers := rfl
@[simp] theorem respond_line (st : Status) (sub : Byte) (p : List Byte) (s : State) :
    (respond st sub p s).line = s.line := rfl
@[simp] theorem respond_lineRate (st : Status) (sub : Byte) (p : List Byte) (s : State) :
    (respond st sub p s).lineRate = s.lineRate := rfl
@[simp] theorem respond_resetLine (st : Status) (sub : Byte) (p : List Byte) (s : State) :
    (respond st sub p s).resetLine = s.resetLine := rfl
@[simp] theorem respond_nanDraws (st : Status) (sub : Byte) (p : List Byte) (s : State) :
    (respond st sub p s).nanDraws = s.nanDraws := rfl

@[simp] theorem respondOk_addr (p : List Byte) (s : State) :
    (respondOk p s).addr = s.addr := rfl
@[simp] theorem respondOk_phase (p : List Byte) (s : State) :
    (respondOk p s).phase = .responding (0x00 :: 0x00 :: p) := rfl
@[simp] theorem respondOk_reqPort (p : List Byte) (s : State) :
    (respondOk p s).reqPort = s.reqPort := rfl
@[simp] theorem respondOk_hostReady (p : List Byte) (s : State) :
    (respondOk p s).hostReady = s.hostReady := rfl
@[simp] theorem respondOk_taken (p : List Byte) (s : State) :
    (respondOk p s).taken = s.taken := rfl
@[simp] theorem respondOk_offered (p : List Byte) (s : State) :
    (respondOk p s).offered = s.offered := rfl
@[simp] theorem respondOk_writeAnswers (p : List Byte) (s : State) :
    (respondOk p s).writeAnswers = s.writeAnswers := rfl
@[simp] theorem respondOk_baudAnswers (p : List Byte) (s : State) :
    (respondOk p s).baudAnswers = s.baudAnswers := rfl
@[simp] theorem respondOk_line (p : List Byte) (s : State) :
    (respondOk p s).line = s.line := rfl
@[simp] theorem respondOk_lineRate (p : List Byte) (s : State) :
    (respondOk p s).lineRate = s.lineRate := rfl
@[simp] theorem respondOk_resetLine (p : List Byte) (s : State) :
    (respondOk p s).resetLine = s.resetLine := rfl
@[simp] theorem respondOk_nanDraws (p : List Byte) (s : State) :
    (respondOk p s).nanDraws = s.nanDraws := rfl

@[simp] theorem raiseInvalidInput_addr (s : State) :
    (raiseInvalidInput s).addr = s.addr := rfl
@[simp] theorem raiseInvalidInput_phase (s : State) :
    (raiseInvalidInput s).phase = .responding [0x02, 0x00] := rfl
@[simp] theorem raiseInvalidInput_reqPort (s : State) :
    (raiseInvalidInput s).reqPort = s.reqPort := rfl
@[simp] theorem raiseInvalidInput_hostReady (s : State) :
    (raiseInvalidInput s).hostReady = s.hostReady := rfl
@[simp] theorem raiseInvalidInput_taken (s : State) :
    (raiseInvalidInput s).taken = s.taken := rfl
@[simp] theorem raiseInvalidInput_offered (s : State) :
    (raiseInvalidInput s).offered = s.offered := rfl
@[simp] theorem raiseInvalidInput_writeAnswers (s : State) :
    (raiseInvalidInput s).writeAnswers = s.writeAnswers := rfl
@[simp] theorem raiseInvalidInput_baudAnswers (s : State) :
    (raiseInvalidInput s).baudAnswers = s.baudAnswers := rfl
@[simp] theorem raiseInvalidInput_line (s : State) :
    (raiseInvalidInput s).line = s.line := rfl
@[simp] theorem raiseInvalidInput_lineRate (s : State) :
    (raiseInvalidInput s).lineRate = s.lineRate := rfl
@[simp] theorem raiseInvalidInput_resetLine (s : State) :
    (raiseInvalidInput s).resetLine = s.resetLine := rfl
@[simp] theorem raiseInvalidInput_nanDraws (s : State) :
    (raiseInvalidInput s).nanDraws = s.nanDraws := rfl

@[simp] theorem raiseTransportError_addr (sub : Byte) (s : State) :
    (raiseTransportError sub s).addr = s.addr := rfl
@[simp] theorem raiseTransportError_phase (sub : Byte) (s : State) :
    (raiseTransportError sub s).phase = .responding [0x01, sub] := rfl
@[simp] theorem raiseTransportError_reqPort (sub : Byte) (s : State) :
    (raiseTransportError sub s).reqPort = s.reqPort := rfl
@[simp] theorem raiseTransportError_hostReady (sub : Byte) (s : State) :
    (raiseTransportError sub s).hostReady = s.hostReady := rfl
@[simp] theorem raiseTransportError_taken (sub : Byte) (s : State) :
    (raiseTransportError sub s).taken = s.taken := rfl
@[simp] theorem raiseTransportError_offered (sub : Byte) (s : State) :
    (raiseTransportError sub s).offered = s.offered := rfl
@[simp] theorem raiseTransportError_writeAnswers (sub : Byte) (s : State) :
    (raiseTransportError sub s).writeAnswers = s.writeAnswers := rfl
@[simp] theorem raiseTransportError_baudAnswers (sub : Byte) (s : State) :
    (raiseTransportError sub s).baudAnswers = s.baudAnswers := rfl
@[simp] theorem raiseTransportError_line (sub : Byte) (s : State) :
    (raiseTransportError sub s).line = s.line := rfl
@[simp] theorem raiseTransportError_lineRate (sub : Byte) (s : State) :
    (raiseTransportError sub s).lineRate = s.lineRate := rfl
@[simp] theorem raiseTransportError_resetLine (sub : Byte) (s : State) :
    (raiseTransportError sub s).resetLine = s.resetLine := rfl
@[simp] theorem raiseTransportError_nanDraws (sub : Byte) (s : State) :
    (raiseTransportError sub s).nanDraws = s.nanDraws := rfl

@[simp] theorem raiseUnknown_addr (s : State) :
    (raiseUnknown s).addr = s.addr := rfl
@[simp] theorem raiseUnknown_phase (s : State) :
    (raiseUnknown s).phase = .responding [0x04, 0x00] := rfl
@[simp] theorem raiseUnknown_reqPort (s : State) :
    (raiseUnknown s).reqPort = s.reqPort := rfl
@[simp] theorem raiseUnknown_hostReady (s : State) :
    (raiseUnknown s).hostReady = s.hostReady := rfl
@[simp] theorem raiseUnknown_taken (s : State) :
    (raiseUnknown s).taken = s.taken := rfl
@[simp] theorem raiseUnknown_offered (s : State) :
    (raiseUnknown s).offered = s.offered := rfl
@[simp] theorem raiseUnknown_writeAnswers (s : State) :
    (raiseUnknown s).writeAnswers = s.writeAnswers := rfl
@[simp] theorem raiseUnknown_baudAnswers (s : State) :
    (raiseUnknown s).baudAnswers = s.baudAnswers := rfl
@[simp] theorem raiseUnknown_line (s : State) :
    (raiseUnknown s).line = s.line := rfl
@[simp] theorem raiseUnknown_lineRate (s : State) :
    (raiseUnknown s).lineRate = s.lineRate := rfl
@[simp] theorem raiseUnknown_resetLine (s : State) :
    (raiseUnknown s).resetLine = s.resetLine := rfl
@[simp] theorem raiseUnknown_nanDraws (s : State) :
    (raiseUnknown s).nanDraws = s.nanDraws := rfl

@[simp] theorem offerFrame_addr (op c d : Byte) (s : State) :
    (offerFrame op c d s).addr = s.addr := rfl
@[simp] theorem offerFrame_phase (op c d : Byte) (s : State) :
    (offerFrame op c d s).phase = .waitWrite op (frame s.addr c d) := rfl
@[simp] theorem offerFrame_reqPort (op c d : Byte) (s : State) :
    (offerFrame op c d s).reqPort = s.reqPort := rfl
@[simp] theorem offerFrame_hostReady (op c d : Byte) (s : State) :
    (offerFrame op c d s).hostReady = s.hostReady := rfl
@[simp] theorem offerFrame_taken (op c d : Byte) (s : State) :
    (offerFrame op c d s).taken = s.taken := rfl
@[simp] theorem offerFrame_offered (op c d : Byte) (s : State) :
    (offerFrame op c d s).offered = s.offered ++ [.write (frame s.addr c d)] := rfl
@[simp] theorem offerFrame_writeAnswers (op c d : Byte) (s : State) :
    (offerFrame op c d s).writeAnswers = s.writeAnswers := rfl
@[simp] theorem offerFrame_baudAnswers (op c d : Byte) (s : State) :
    (offerFrame op c d s).baudAnswers = s.baudAnswers := rfl
@[simp] theorem offerFrame_line (op c d : Byte) (s : State) :
    (offerFrame op c d s).line = s.line := rfl
@[simp] theorem offerFrame_lineRate (op c d : Byte) (s : State) :
    (offerFrame op c d s).lineRate = s.lineRate := rfl
@[simp] theorem offerFrame_resetLine (op c d : Byte) (s : State) :
    (offerFrame op c d s).resetLine = s.resetLine := rfl
@[simp] theorem offerFrame_nanDraws (op c d : Byte) (s : State) :
    (offerFrame op c d s).nanDraws = s.nanDraws := rfl

@[simp] theorem offerBaud_addr (r : Word32) (s : State) :
    (offerBaud r s).addr = s.addr := rfl
@[simp] theorem offerBaud_phase (r : Word32) (s : State) :
    (offerBaud r s).phase = .waitBaud r := rfl
@[simp] theorem offerBaud_reqPort (r : Word32) (s : State) :
    (offerBaud r s).reqPort = s.reqPort := rfl
@[simp] theorem offerBaud_hostReady (r : Word32) (s : State) :
    (offerBaud r s).hostReady = s.hostReady := rfl
@[simp] theorem offerBaud_taken (r : Word32) (s : State) :
    (offerBaud r s).taken = s.taken := rfl
@[simp] theorem offerBaud_offered (r : Word32) (s : State) :
    (offerBaud r s).offered = s.offered ++ [.setBaud r] := rfl
@[simp] theorem offerBaud_writeAnswers (r : Word32) (s : State) :
    (offerBaud r s).writeAnswers = s.writeAnswers := rfl
@[simp] theorem offerBaud_baudAnswers (r : Word32) (s : State) :
    (offerBaud r s).baudAnswers = s.baudAnswers := rfl
@[simp] theorem offerBaud_line (r : Word32) (s : State) :
    (offerBaud r s).line = s.line := rfl
@[simp] theorem offerBaud_lineRate (r : Word32) (s : State) :
    (offerBaud r s).lineRate = s.lineRate := rfl
@[simp] theorem offerBaud_resetLine (r : Word32) (s : State) :
    (offerBaud r s).resetLine = s.resetLine := rfl
@[simp] theorem offerBaud_nanDraws (r : Word32) (s : State) :
    (offerBaud r s).nanDraws = s.nanDraws := rfl

@[simp] theorem keepReceiving_addr (q : List Byte) (s : State) :
    (keepReceiving q s).addr = s.addr := rfl
@[simp] theorem keepReceiving_phase (q : List Byte) (s : State) :
    (keepReceiving q s).phase = receivingPhase q := rfl
@[simp] theorem keepReceiving_reqPort (q : List Byte) (s : State) :
    (keepReceiving q s).reqPort = s.reqPort := rfl
@[simp] theorem keepReceiving_hostReady (q : List Byte) (s : State) :
    (keepReceiving q s).hostReady = s.hostReady := rfl
@[simp] theorem keepReceiving_taken (q : List Byte) (s : State) :
    (keepReceiving q s).taken = s.taken := rfl
@[simp] theorem keepReceiving_offered (q : List Byte) (s : State) :
    (keepReceiving q s).offered = s.offered := rfl
@[simp] theorem keepReceiving_writeAnswers (q : List Byte) (s : State) :
    (keepReceiving q s).writeAnswers = s.writeAnswers := rfl
@[simp] theorem keepReceiving_baudAnswers (q : List Byte) (s : State) :
    (keepReceiving q s).baudAnswers = s.baudAnswers := rfl
@[simp] theorem keepReceiving_line (q : List Byte) (s : State) :
    (keepReceiving q s).line = s.line := rfl
@[simp] theorem keepReceiving_lineRate (q : List Byte) (s : State) :
    (keepReceiving q s).lineRate = s.lineRate := rfl
@[simp] theorem keepReceiving_resetLine (q : List Byte) (s : State) :
    (keepReceiving q s).resetLine = s.resetLine := rfl
@[simp] theorem keepReceiving_nanDraws (q : List Byte) (s : State) :
    (keepReceiving q s).nanDraws = s.nanDraws := rfl

@[simp] theorem clockReset_addr (s : State) :
    (clockReset s).addr = s.addr := rfl
@[simp] theorem clockReset_phase (s : State) :
    (clockReset s).phase = s.phase := rfl
@[simp] theorem clockReset_reqPort (s : State) :
    (clockReset s).reqPort = s.reqPort := rfl
@[simp] theorem clockReset_hostReady (s : State) :
    (clockReset s).hostReady = s.hostReady := rfl
@[simp] theorem clockReset_taken (s : State) :
    (clockReset s).taken = s.taken := rfl
@[simp] theorem clockReset_offered (s : State) :
    (clockReset s).offered = s.offered := rfl
@[simp] theorem clockReset_writeAnswers (s : State) :
    (clockReset s).writeAnswers = s.writeAnswers := rfl
@[simp] theorem clockReset_baudAnswers (s : State) :
    (clockReset s).baudAnswers = s.baudAnswers := rfl
@[simp] theorem clockReset_line (s : State) :
    (clockReset s).line = s.line := rfl
@[simp] theorem clockReset_lineRate (s : State) :
    (clockReset s).lineRate = s.lineRate := rfl
@[simp] theorem clockReset_resetLine (s : State) :
    (clockReset s).resetLine = s.resetLine.tail := rfl
@[simp] theorem clockReset_nanDraws (s : State) :
    (clockReset s).nanDraws = s.nanDraws := rfl

end Sys2Proof.Machine
end

