-- ==== Sys2Proof/Laws/Ops.lean ====
section
/-! SUPPORT. For each shared operation, one lemma that says once what it can do; proofs cite these and do not unfold it. -/

namespace Sys2Proof.Machine

/-! ### Checksum and map -/

theorem ck7_toNat (d : List Byte) : (ck7 d).toNat = (d.map BitVec.toNat).sum % 128 := by
  have h : (d.map BitVec.toNat).sum &&& ckMask = (d.map BitVec.toNat).sum % 128 := Nat.and_two_pow_sub_one_eq_mod _ 7
  simp only [ck7, h, BitVec.toNat_ofNat]
  omega

theorem frame_b3_toNat (addr c d : Byte) : (frame addr c d).b3.toNat = (addr.toNat + c.toNat + d.toNat) % 128 := by
  simp only [frame, ck7_toNat, List.map_cons, List.map_nil, List.sum_cons, List.sum_nil]
  congr 1
  omega

theorem toByte_toNat {z : Int} (h0 : 0 ≤ z) (h1 : z < 256) : ((toByte z).toNat : Int) = z := by
  rw [toByte, BitVec.toNat_ofInt]
  omega

theorem toI32_toInt {z : Int} (h0 : -2 ^ 31 ≤ z) (h1 : z ≤ 2 ^ 31 - 1) : (toI32 z).toInt = z := by
  rw [toI32, BitVec.toInt_ofInt]
  exact Int.bmod_eq_of_le (by omega) (by omega)

theorem mapZ_from_zero (fh th v : Nat) : mapZ 0 fh 0 th v = ((v * th / fh : Nat) : Int) := by
  have h : ((v : Int) - 0) * ((th : Int) - 0) = ((v * th : Nat) : Int) := by push_cast; ring
  rw [mapZ, h, Int.sub_zero, Int.zero_add]
  rfl

/-! ### The motor encoding -/

theorem motor_forward (fwd rev : Byte) {v : Int} (h0 : 0 ≤ v) (h1 : v ≤ 127) : motor fwd rev v = (fwd, toByte v) := by
  rw [motor, if_pos h0, min_eq_right h1]

theorem motor_backward (fwd rev : Byte) {v : Int} (h : v < 0) :
    motor fwd rev v = (rev, toByte (-(max (-127) v))) := by
  rw [motor, if_neg (by omega)]

/-! ### What the transport's answers do -/

theorem afterWrite_err (op : Byte) (f : Frame) (sub : Byte) (n : Fin 5) (s : State) :
    afterWrite op f (.err sub n) s = raiseTransportError sub s := rfl

theorem afterWrite_ok_some {op : Byte} {f : Frame} {r : Word32} (s : State) (h : pendingRate op f = some r) :
    afterWrite op f .ok s = offerBaud r s := by simp [afterWrite, h]

theorem afterWrite_ok_none {op : Byte} {f : Frame} (s : State) (h : pendingRate op f = none) :
    afterWrite op f .ok s = respondOk [] s := by simp [afterWrite, h]

theorem pendingRate_of_ne {op : Byte} (f : Frame) (h : op ≠ opSetBaudRate) : pendingRate op f = none := by
  simp only [pendingRate, if_neg h]

theorem answerWrite_nil (op : Byte) (f : Frame) {s : State} (h : s.writeAnswers = []) : answerWrite op f s = s := by
  rw [answerWrite, h]

theorem answerWrite_cons (op : Byte) (f : Frame) {s : State} {a : WriteAnswer} {rest : List WriteAnswer}
    (h : s.writeAnswers = a :: rest) :
    answerWrite op f s = afterWrite op f a { s with writeAnswers := rest, line := s.line ++ lineBytes f a } := by
  rw [answerWrite, h]

theorem answerBaud_nil (r : Word32) {s : State} (h : s.baudAnswers = []) : answerBaud r s = s := by rw [answerBaud, h]

theorem answerBaud_cons (r : Word32) {s : State} {a : BaudAnswer} {rest : List BaudAnswer}
    (h : s.baudAnswers = a :: rest) :
    answerBaud r s = afterBaud a { s with baudAnswers := rest, lineRate := rateAfter r s.lineRate a } := by
  rw [answerBaud, h]

/-- Every rate the lookup of a data code gives is one of the table's. -/
theorem baudRateOfCode_cases {d : Byte} {r : Word32} (h : baudRateOfCode d = some r) :
    (d = 1 ∧ r = 2400) ∨ (d = 2 ∧ r = 9600) ∨ (d = 3 ∧ r = 19200) ∨ (d = 4 ∧ r = 38400) ∨ (d = 5 ∧ r = 115200) := by
  simp only [baudRateOfCode, baudTable, List.map_cons, List.map_nil, List.lookup_cons, List.lookup_nil] at h
  repeat' split at h
  all_goals simp_all

theorem baudCode_cases {d : Byte} {r : Word32} (h : baudCode r = some d) :
    (d = 1 ∧ r = 2400) ∨ (d = 2 ∧ r = 9600) ∨ (d = 3 ∧ r = 19200) ∨ (d = 4 ∧ r = 38400) ∨ (d = 5 ∧ r = 115200) := by
  simp only [baudCode, baudTable, List.lookup_cons, List.lookup_nil] at h
  repeat' split at h
  all_goals simp_all

theorem baudRateOfCode_of_baudCode {d : Byte} {r : Word32} (h : baudCode r = some d) : baudRateOfCode d = some r := by
  obtain ⟨rfl, rfl⟩ | ⟨rfl, rfl⟩ | ⟨rfl, rfl⟩ | ⟨rfl, rfl⟩ | ⟨rfl, rfl⟩ := baudCode_cases h <;> decide

/-! ### Ports -/

theorem deliver_nil (s : State) : deliver [] s = { s with phase := .idle } := by simp [deliver]

theorem deliver_waits (b : Byte) (rest : List Byte) {s : State} (h : s.hostReady = 0) : deliver (b :: rest) s = s := by
  simp [deliver, h]

theorem deliver_takes (b : Byte) (rest : List Byte) {s : State} {n : Nat} (h : s.hostReady = n + 1) :
    deliver (b :: rest) s = { s with phase := afterTaking rest, hostReady := n, taken := s.taken ++ [b] } := by
  simp [deliver, h]

theorem acceptByte_some {s : State} {q : List Byte} {b : Byte} {rest : List Byte} (hp : acceptedBytes s.phase = some q)
    (hr : s.reqPort = b :: rest) : acceptByte s = some (q ++ [b], { s with reqPort := rest }) := by
  simp [acceptByte, hp, hr]

theorem acceptByte_empty {s : State} (hr : s.reqPort = []) : acceptByte s = none := by
  unfold acceptByte
  rw [hr]
  split <;> simp_all

theorem acceptByte_busy {s : State} (hp : acceptedBytes s.phase = none) : acceptByte s = none := by
  simp [acceptByte, hp]

/-- Everything accepting a byte can do. -/
theorem acceptByte_cases {s s' : State} {q : List Byte} (h : acceptByte s = some (q, s')) :
    ∃ q0 b rest, acceptedBytes s.phase = some q0 ∧ s.reqPort = b :: rest ∧ q = q0 ++ [b] ∧
      s' = { s with reqPort := rest } := by
  unfold acceptByte at h
  split at h
  · rename_i q0 b rest hp hr
    simp only [Option.some.injEq, Prod.mk.injEq] at h
    exact ⟨q0, b, rest, hp, hr, h.1.symm, h.2.symm⟩
  · cases h
  · cases h

/-! ### One step -/

theorem step_reset {s : State} (h : resetAsserted s = true) : step s = .next (takeReset (clockReset s)) := by
  rw [step, if_pos h]

theorem step_running {s : State} (h : resetAsserted s = false) : step s = stepRunning (clockReset s) := by
  rw [step, if_neg (by simp [h])]

theorem stepRunning_none {s : State} (h : acceptByte s = none) : stepRunning s = .next (otherMove s) := by
  rw [stepRunning, h]

theorem stepRunning_some {s s' : State} {q : List Byte} (h : acceptByte s = some (q, s')) :
    stepRunning s = runRequest q s' := by
  rw [stepRunning, h]

theorem runRequest_complete {q rest : List Byte} {i : Instr} (s : State) (h : decode q = .ok (i, rest)) :
    runRequest q s = exec i s := by
  rw [runRequest, h]

theorem runRequest_partial {q : List Byte} {e : DecodeError} (s : State) (h : decode q = .error e) :
    runRequest q s = .next (keepReceiving q s) := by
  rw [runRequest, h]

/-- Everything one step can do, if it answers a next state: reset; accept a byte that does not complete a request; accept
the last byte of a request and run it; or leave the move to the transport or the host. -/
theorem step_cases {s t : State} (h : step s = .next t) :
    (resetAsserted s = true ∧ t = takeReset (clockReset s)) ∨
    (resetAsserted s = false ∧ ∃ q b rest e, acceptedBytes s.phase = some q ∧ s.reqPort = b :: rest ∧
      decode (q ++ [b]) = .error e ∧ t = keepReceiving (q ++ [b]) { clockReset s with reqPort := rest }) ∨
    (resetAsserted s = false ∧ ∃ q b rest i left, acceptedBytes s.phase = some q ∧ s.reqPort = b :: rest ∧
      decode (q ++ [b]) = .ok (i, left) ∧ exec i { clockReset s with reqPort := rest } = .next t) ∨
    (resetAsserted s = false ∧ acceptByte (clockReset s) = none ∧ t = otherMove (clockReset s)) := by
  cases hr : resetAsserted s with
  | true =>
    rw [step_reset hr] at h
    exact .inl ⟨rfl, by injection h with h; exact h.symm⟩
  | false =>
    rw [step_running hr] at h
    cases ha : acceptByte (clockReset s) with
    | none =>
      rw [stepRunning_none ha] at h
      exact .inr (.inr (.inr ⟨rfl, rfl, by injection h with h; exact h.symm⟩))
    | some p =>
      obtain ⟨q, s'⟩ := p
      rw [stepRunning_some ha] at h
      obtain ⟨q0, b, rest, hp, hq, rfl, rfl⟩ := acceptByte_cases ha
      cases hd : decode (q0 ++ [b]) with
      | error e =>
        rw [runRequest_partial _ hd] at h
        exact .inr (.inl ⟨rfl, q0, b, rest, e, hp, hq, hd, by injection h with h; exact h.symm⟩)
      | ok p =>
        obtain ⟨i, left⟩ := p
        rw [runRequest_complete _ hd] at h
        exact .inr (.inr (.inl ⟨rfl, q0, b, rest, i, left, hp, hq, hd, h⟩))

end Sys2Proof.Machine
end

