-- ==== Sys2Proof/Laws/Run.lean ====
section
/-! SUPPORT. Runs of several steps, and steps while the reset input is not asserted. -/

namespace Sys2Proof.Machine

theorem run_next {M : Host.Core} {s t : M.State} (n : Nat) (h : M.step s = .next t) : M.run (n + 1) s = M.run n t := by
  simp only [Host.Core.run, h]

theorem run_refused {M : Host.Core} {s : M.State} {r : M.Refusal} (n : Nat) (h : M.step s = .refused r) :
    M.run (n + 1) s = .refused r := by
  simp only [Host.Core.run, h]

theorem runSteps_eq_run (n : Nat) (s : State) : runSteps n s = Host.Core.run Sys2Proof.core n s := by
  induction n generalizing s with
  | zero => rfl
  | succ n ih =>
    rw [runSteps]
    cases h : step s with
    | next t => exact (ih t).trans (run_next (M := Sys2Proof.core) n h).symm
    | fault r => exact nomatch r
    | refused r => exact (run_refused (M := Sys2Proof.core) n h).symm

@[simp] theorem runSteps_zero (s : State) : runSteps 0 s = .next s := rfl

theorem runSteps_succ {s t : State} (n : Nat) (h : step s = .next t) : runSteps (n + 1) s = runSteps n t := by
  rw [runSteps, h]

theorem runSteps_one (s : State) : runSteps 1 s = step s := by
  rw [runSteps]
  cases step s <;> rfl

theorem runSteps_add {s t : State} {m : Nat} (n : Nat) (h : runSteps m s = .next t) : runSteps (m + n) s = runSteps n t := by
  induction m generalizing s with
  | zero =>
    injection h with h
    rw [Nat.zero_add, h]
  | succ m ih =>
    cases hs : step s with
    | next u =>
      rw [runSteps_succ m hs] at h
      rw [Nat.succ_add, runSteps_succ (m + n) hs, ih h]
    | fault r => exact nomatch r
    | refused r => rw [runSteps, hs] at h; cases h

theorem clockReset_of_nil {s : State} (h : s.resetLine = []) : clockReset s = s := by
  cases s
  cases h
  rfl

theorem resetAsserted_of_nil {s : State} (h : s.resetLine = []) : resetAsserted s = false := by
  rw [resetAsserted, h]
  rfl

theorem acceptedBytes_receivingPhase (q : List Byte) : acceptedBytes (receivingPhase q) = some q := by
  cases q <;> rfl

/-- A step in which the block accepts no byte. -/
theorem step_other {s : State} (hr : s.resetLine = []) (ha : acceptByte s = none) : step s = .next (otherMove s) := by
  rw [step_running (resetAsserted_of_nil hr), clockReset_of_nil hr, stepRunning_none ha]

/-- A step in `WaitWrite`: the transport answers, or all wait. -/
theorem step_waitWrite {s : State} {op : Byte} {f : Frame} (hr : resetAsserted s = false) (hp : s.phase = .waitWrite op f) :
    step s = .next (answerWrite op f (clockReset s)) := by
  have ha : acceptByte (clockReset s) = none := acceptByte_busy (by rw [clockReset_phase, hp]; rfl)
  rw [step_running hr, stepRunning_none ha, otherMove, clockReset_phase, hp]

/-- A step in `WaitBaud`: the transport answers, or all wait. -/
theorem step_waitBaud {s : State} {r : Word32} (hr : resetAsserted s = false) (hp : s.phase = .waitBaud r) :
    step s = .next (answerBaud r (clockReset s)) := by
  have ha : acceptByte (clockReset s) = none := acceptByte_busy (by rw [clockReset_phase, hp]; rfl)
  rw [step_running hr, stepRunning_none ha, otherMove, clockReset_phase, hp]

/-- A step in `Responding`: the host takes a byte, or all wait. -/
theorem step_responding {s : State} {rest : List Byte} (hr : resetAsserted s = false) (hp : s.phase = .responding rest) :
    step s = .next (deliver rest (clockReset s)) := by
  have ha : acceptByte (clockReset s) = none := acceptByte_busy (by rw [clockReset_phase, hp]; rfl)
  rw [step_running hr, stepRunning_none ha, otherMove, clockReset_phase, hp]

/-- The frame of the model is the frame of R101, written out. -/
theorem frame_eq_wireFrame (addr c d : Byte) : frame addr c d = wireFrame addr c d := by
  have h : (frame addr c d).b3 = (wireFrame addr c d).b3 := by
    apply BitVec.eq_of_toNat_eq
    rw [frame_b3_toNat]
    simp only [wireFrame, BitVec.toNat_ofNat]
    omega
  exact congrArg (fun x => Frame.mk addr c d x) h

theorem offerFrame_eq_offering (op c d : Byte) (s : State) : offerFrame op c d s = offering op c d s := by
  rw [offerFrame, offering, frame_eq_wireFrame]

/-- What a request does does not depend on the phase in which its last byte is accepted. -/
theorem exec_withPhase (i : Instr) (s : State) (p : Phase) : exec i { s with phase := p } = exec i s := by
  cases i with
  | mapRangeF fl fh tl th v =>
    simp only [exec, execMapRangeF]
    split
    · rfl
    · unfold countDraw
      split <;> rfl
  | _ => rfl

end Sys2Proof.Machine
end

