-- ==== Sys2Proof/Laws/Exec.lean ====
section
/-! SUPPORT. What running a request can do, said once: it answers a next state, and either offers a frame the rules admit or
begins a response the rules admit. -/

namespace Sys2Proof.Machine

/-- What a frame operation's code and data are (30_encoding.md R100, R102; 42_config_commands.md R176). -/
def admittedFrame (op c d : Byte) : Prop :=
  (op, c) ∈ emitters ∧ (c = 2 ∨ c = 3 ∨ d.toNat ≤ 127) ∧ (op = 0x23 → (baudRateOfCode d).isSome = true)

/-- What a request that offers nothing leaves: a response, perhaps a new address, and perhaps one draw more. -/
def answered (response : List Byte) (addr : Byte) (draws : Nat) (s : State) : State :=
  { s with addr := addr, phase := .responding response, nanDraws := draws }

/-- Running a request offers a frame or answers. -/
def offersOrAnswers (o : Host.Outcome State Fault Refusal) (s : State) : Prop :=
  (∃ op c d, admittedFrame op c d ∧ o = .next (offerFrame op c d s)) ∨
    ∃ response addr draws, legalResponse response = true ∧ o = .next (answered response addr draws s)

theorem offers_of {o : Host.Outcome State Fault Refusal} {op c d : Byte} {s : State} (h : admittedFrame op c d)
    (ho : o = .next (offerFrame op c d s)) : offersOrAnswers o s := .inl ⟨op, c, d, h, ho⟩

theorem answers_of {o : Host.Outcome State Fault Refusal} {response : List Byte} {addr : Byte} {draws : Nat} {s : State}
    (h : legalResponse response = true) (ho : o = .next (answered response addr draws s)) : offersOrAnswers o s :=
  .inr ⟨response, addr, draws, h, ho⟩

theorem motor_data_le (fwd rev a : Byte) : (motor fwd rev (i8 a)).2.toNat ≤ 127 := by
  have h1 := BitVec.toInt_lt (x := a)
  have h2 := BitVec.le_toInt (x := a)
  unfold i8
  by_cases h : 0 ≤ a.toInt
  · rw [motor_forward fwd rev h (by omega)]
    have := toByte_toNat h (by omega)
    simp only
    omega
  · rw [motor_backward fwd rev (by omega)]
    have := toByte_toNat (z := -(max (-127) a.toInt)) (by omega) (by omega)
    simp only
    omega

theorem motor_code (fwd rev a : Byte) : (motor fwd rev (i8 a)).1 = fwd ∨ (motor fwd rev (i8 a)).1 = rev := by
  unfold motor
  split
  · exact .inl rfl
  · exact .inr rfl

theorem motor_admitted {op fwd rev : Byte} (a : Byte) (hf : (op, fwd) ∈ emitters) (hr : (op, rev) ∈ emitters)
    (hop : op ≠ 0x23) : admittedFrame op (motor fwd rev (i8 a)).1 (motor fwd rev (i8 a)).2 := by
  refine ⟨?_, .inr (.inr (motor_data_le fwd rev a)), fun h => absurd h hop⟩
  rcases motor_code fwd rev a with h | h <;> rw [h] <;> assumption

theorem roundedMs_eq (a : Word16) :
    roundedMs a = ((if 1 ≤ a.toNat ∧ a.toNat ≤ 99 then 100 else a.toNat : Nat) : Int) := by
  unfold roundedMs u16
  split <;> split <;> omega

theorem timeoutData_eq {a : Word16} (h : a.toNat ≤ 12700) :
    (timeoutData a).toNat = (if 1 ≤ a.toNat ∧ a.toNat ≤ 99 then 100 else a.toNat) * 127 / 12700 := by
  have hb : (if 1 ≤ a.toNat ∧ a.toNat ≤ 99 then 100 else a.toNat) ≤ 12700 := by split <;> omega
  have hm : mapZ 0 timeoutMaxMs 0 127 (roundedMs a) =
      (((if 1 ≤ a.toNat ∧ a.toNat ≤ 99 then 100 else a.toNat) * 127 / 12700 : Nat) : Int) := by
    rw [roundedMs_eq]
    exact mapZ_from_zero 12700 127 _
  have := toByte_toNat (z := mapZ 0 timeoutMaxMs 0 127 (roundedMs a)) (by omega) (by omega)
  unfold timeoutData
  omega

theorem linearData_eq (a : Byte) {top : Nat} (h : top ≤ 127) :
    (toByte (mapZ 0 255 0 top (u8 a))).toNat = a.toNat * top / 255 := by
  have ha := a.isLt
  have hm : mapZ 0 255 0 top (u8 a) = ((a.toNat * top / 255 : Nat) : Int) := mapZ_from_zero 255 top a.toNat
  have hle : a.toNat * top / 255 ≤ top := by
    rw [Nat.div_le_iff_le_mul_add_pred (by decide)]
    nlinarith
  have := toByte_toNat (z := mapZ 0 255 0 top (u8 a)) (by omega) (by omega)
  omega

theorem ck7_msb (data : List Byte) : (ck7 data).msb = false := by
  rw [BitVec.msb_eq_false_iff_two_mul_lt, ck7_toNat]
  omega

theorem legalResponse_checksum (c : Byte) (h : c.msb = false) : legalResponse [0x00, 0x00, c] = true := by
  simp [legalResponse, h]

theorem legalResponse_payload (v : Word32) : legalResponse (0x00 :: 0x00 :: bytes32 v) = true := rfl

/-- Everything running a request can do. -/
theorem exec_offersOrAnswers (i : Instr) (s : State) : offersOrAnswers (exec i s) s := by
  cases i with
  | setAddress a => exact answers_of (response := [0x00, 0x00]) (addr := a) (draws := s.nanDraws) rfl rfl
  | driveM1 a => exact offers_of (motor_admitted a (by decide) (by decide) (by decide)) rfl
  | driveM2 a => exact offers_of (motor_admitted a (by decide) (by decide) (by decide)) rfl
  | driveMixed a => exact offers_of (motor_admitted a (by decide) (by decide) (by decide)) rfl
  | turnMixed a => exact offers_of (motor_admitted a (by decide) (by decide) (by decide)) rfl
  | setMinVoltage a => exact offers_of ⟨by decide, .inl rfl, fun h => absurd h (by decide)⟩ rfl
  | setMaxVoltage a => exact offers_of ⟨by decide, .inr (.inl rfl), fun h => absurd h (by decide)⟩ rfl
  | setSerialTimeout a =>
    simp only [exec, execSetSerialTimeout]
    by_cases h : (timeoutMaxMs : Int) < u16 a
    · rw [if_pos h]
      exact answers_of (response := [0x02, 0x00]) (addr := s.addr) (draws := s.nanDraws) rfl rfl
    · rw [if_neg h]
      have hle : a.toNat ≤ 12700 := by
        simp only [timeoutMaxMs, u16, not_lt] at h
        omega
      refine offers_of ⟨by decide, .inr (.inr ?_), fun h => absurd h (by decide)⟩ rfl
      rw [timeoutData_eq hle]
      split <;> omega
  | setBaudRate a =>
    simp only [exec, execSetBaudRate]
    cases h : baudCode a with
    | none => exact answers_of (response := [0x02, 0x00]) (addr := s.addr) (draws := s.nanDraws) rfl rfl
    | some d =>
      refine offers_of ⟨by decide, .inr (.inr ?_), fun _ => by rw [baudRateOfCode_of_baudCode h]; rfl⟩ rfl
      obtain ⟨rfl, -⟩ | ⟨rfl, -⟩ | ⟨rfl, -⟩ | ⟨rfl, -⟩ | ⟨rfl, -⟩ := baudCode_cases h <;> decide
  | setRamping a =>
    refine offers_of ⟨by decide, .inr (.inr ?_), fun h => absurd h (by decide)⟩ rfl
    have ha := a.isLt
    have h := linearData_eq a (top := 80) (by decide)
    exact (le_of_eq h).trans (by omega)
  | setDeadband a =>
    refine offers_of ⟨by decide, .inr (.inr ?_), fun h => absurd h (by decide)⟩ rfl
    have ha := a.isLt
    have h := linearData_eq a (top := 127) (by decide)
    exact (le_of_eq h).trans (by omega)
  | checksum data =>
    exact answers_of (addr := s.addr) (draws := s.nanDraws) (legalResponse_checksum _ (ck7_msb data)) rfl
  | mapRangeI fl fh tl th v =>
    simp only [exec, execMapRangeI]
    by_cases h : i32 fh = i32 fl
    · rw [if_pos h]
      exact answers_of (response := [0x02, 0x00]) (addr := s.addr) (draws := s.nanDraws) rfl rfl
    · rw [if_neg h]
      by_cases hf : fitsI32 (mapZ (i32 fl) (i32 fh) (i32 tl) (i32 th) (i32 v)) = true
      · rw [if_pos hf]
        exact answers_of (addr := s.addr) (draws := s.nanDraws) (legalResponse_payload _) rfl
      · rw [if_neg hf]
        exact answers_of (response := [0x02, 0x00]) (addr := s.addr) (draws := s.nanDraws) rfl rfl
  | mapRangeF fl fh tl th v =>
    simp only [exec, execMapRangeF]
    split
    · exact answers_of (response := [0x02, 0x00]) (addr := s.addr) (draws := s.nanDraws) rfl rfl
    · unfold countDraw
      split
      · exact answers_of (addr := s.addr) (draws := s.nanDraws + 1) (legalResponse_payload _) rfl
      · exact answers_of (addr := s.addr) (draws := s.nanDraws) (legalResponse_payload _) rfl
  | ratioToValue a =>
    simp only [exec, execRatioToValue]
    split
    · exact answers_of (addr := s.addr) (draws := s.nanDraws) (legalResponse_payload _) rfl
    · exact answers_of (response := [0x02, 0x00]) (addr := s.addr) (draws := s.nanDraws) rfl rfl
  | valueToRatio a => exact answers_of (addr := s.addr) (draws := s.nanDraws) (legalResponse_payload _) rfl
  | unassigned op => exact answers_of (response := [0x04, 0x00]) (addr := s.addr) (draws := s.nanDraws) rfl rfl

end Sys2Proof.Machine
end

