-- ==== Sys2Proof/Laws/PerInstr.lean ====
section
/-! SUPPORT. The family RequestBytes, about every request as syntax: its encoding is as long as 30_encoding.md R87 says, from
its opcode byte and the count of a CHECKSUM. -/

namespace Sys2Proof.Laws.RequestBytes

/-- The count field of a request: the number of data bytes of a `CHECKSUM`, and 0 for every other (R81). -/
def count : Instr → Nat
  | .checksum data => data.length
  | _ => 0

/-- The encoding of a well-formed request has the length of R87. -/
def Statement (i : Instr) : Prop := i.wellFormed = true → (encode i).length = requestLength i.opcode (count i)

theorem setAddress (a : Byte) : Statement (.setAddress a) := fun _ => rfl
theorem driveM1 (a : Byte) : Statement (.driveM1 a) := fun _ => rfl
theorem driveM2 (a : Byte) : Statement (.driveM2 a) := fun _ => rfl
theorem driveMixed (a : Byte) : Statement (.driveMixed a) := fun _ => rfl
theorem turnMixed (a : Byte) : Statement (.turnMixed a) := fun _ => rfl
theorem setMinVoltage (a : Byte) : Statement (.setMinVoltage a) := fun _ => rfl
theorem setMaxVoltage (a : Byte) : Statement (.setMaxVoltage a) := fun _ => rfl
theorem setSerialTimeout (a : Word16) : Statement (.setSerialTimeout a) := fun _ => rfl
theorem setBaudRate (a : Word32) : Statement (.setBaudRate a) := fun _ => rfl
theorem setRamping (a : Byte) : Statement (.setRamping a) := fun _ => rfl
theorem setDeadband (a : Byte) : Statement (.setDeadband a) := fun _ => rfl

theorem checksum (data : List Byte) : Statement (.checksum data) := by
  intro _
  have h : requestLength opChecksum data.length = 3 + data.length := by simp [requestLength]
  simp only [encode, Instr.opcode, Instr.operandBytes, count, List.length_cons, List.length_append,
    Machine.bytes16_length, h]
  omega

theorem mapRangeI (fl fh tl th v : Word32) : Statement (.mapRangeI fl fh tl th v) := fun _ => rfl
theorem mapRangeF (fl fh tl th v : Word32) : Statement (.mapRangeF fl fh tl th v) := fun _ => rfl
theorem ratioToValue (a : Word32) : Statement (.ratioToValue a) := fun _ => rfl
theorem valueToRatio (a : Word32) : Statement (.valueToRatio a) := fun _ => rfl

theorem unassigned_length : ∀ op : Byte, op ∉ assignedOpcodes → 1 = requestLength op 0 := by decide

theorem unassigned (op : Byte) : Statement (.unassigned op) := by
  intro h
  exact unassigned_length op (by simpa only [Instr.wellFormed, decide_eq_true_eq] using h)

end Sys2Proof.Laws.RequestBytes
end

