-- ==== Sys2Proof/Tests/Mapping.lean ====
section
/-! SUPPORT. Tests of the numeric mapping requests, with the vectors of 95_test_vectors.md 2.1. -/

namespace Sys2Proof.Tests

open Sys2Proof Sys2Proof.Machine

/-- The response after a meaning, where it responds at once. -/
def responseOf (o : Host.Outcome State Fault Refusal) : List Byte :=
  match o with
  | .next s =>
    match s.phase with
    | .responding r => r
    | .idle => []
    | .receiving _ _ => []
    | .waitWrite _ _ => []
    | .waitBaud _ => []
  | .fault _ => []
  | .refused _ => []

theorem test_mapRangeI_truncates_to_zero :
    responseOf (exec (.mapRangeI 0 3 0 10 (-1)) State.reset) = [0x00, 0x00, 0xFD, 0xFF, 0xFF, 0xFF] := by decide +kernel
theorem test_mapRangeI_result_too_large :
    responseOf (exec (.mapRangeI 0 1 0 2147483647 2) State.reset) = [0x02, 0x00] := by decide +kernel
theorem test_mapRangeF_third :
    responseOf (exec (.mapRangeF 0 0x40400000 0 0x3F800000 0x3F800000) State.reset) =
      [0x00, 0x00, 0xAB, 0xAA, 0xAA, 0x3E] := by decide +kernel
theorem test_mapRangeF_nan :
    mapF (fpOfBits 0) (fpOfBits 0x3F800000) (fpOfBits 0) (fpOfBits 0x3F800000) (fpOfBits 0x7FC00000) = .nan := by
  decide +kernel
/-- 95_test_vectors.md 2.1: 0.99999988 under each conversion. -/
theorem test_ratioToValue_conversions :
    ratioValue .trunc (fpOfBits 0x3F7FFFFE) = 2046 ∧ ratioValue .rne (fpOfBits 0x3F7FFFFE) = 2047 ∧
    ratioValue .trunc (fpOfBits 0xBF000000) = -1023 ∧ ratioValue .rne (fpOfBits 0xBF000000) = -1024 := by decide +kernel
theorem test_ratioToValue_refuses_nan : responseOf (exec (.ratioToValue 0x7FC00000) State.reset) = [0x02, 0x00] := by
  decide +kernel
theorem test_valueToRatio_16777217 :
    responseOf (exec (.valueToRatio 16777217) State.reset) = [0x00, 0x00, 0x02, 0x10, 0x00, 0x46] := by decide +kernel
theorem test_valueToRatio_min :
    responseOf (exec (.valueToRatio 0x80000000) State.reset) = [0x00, 0x00, 0x02, 0x10, 0x80, 0xC9] := by decide +kernel

end Sys2Proof.Tests
end

