-- ==== Sys2Proof/Tests/Slice0.lean ====
section
/-! SUPPORT. The model's own tests. Expected values are the spec's: its examples and vectors (95_test_vectors.md), and words
written out from the encodings of 30_encoding.md. -/

namespace Sys2Proof.Tests

open Sys2Proof Sys2Proof.Machine

/-! ### Well-formedness: an ill-formed term for each check -/

theorem test_wellFormed_refuses_long_checksum : (Instr.checksum (List.replicate 65536 0)).wellFormed = false := by
  rw [Instr.wellFormed, List.length_replicate]
  decide

theorem test_wellFormed_refuses_assigned_opcode : (Instr.unassigned 0x34).wellFormed = false := by decide

theorem test_wellFormed_takes_unassigned_opcode : (Instr.unassigned 0x35).wellFormed = true := by decide

/-! ### Decoding: for every constructor, a request written out byte by byte -/

theorem test_decode_setAddress : decode [0x01, 0x81] = .ok (.setAddress 0x81, []) := by rfl
theorem test_decode_driveM1 : decode [0x10, 0x80] = .ok (.driveM1 0x80, []) := by rfl
theorem test_decode_driveM2 : decode [0x11, 0x80] = .ok (.driveM2 0x80, []) := by rfl
theorem test_decode_driveMixed : decode [0x12, 0xFB] = .ok (.driveMixed 0xFB, []) := by rfl
theorem test_decode_turnMixed : decode [0x13, 0xCE] = .ok (.turnMixed 0xCE, []) := by rfl
theorem test_decode_setMinVoltage : decode [0x20, 0x1E] = .ok (.setMinVoltage 30, []) := by rfl
theorem test_decode_setMaxVoltage : decode [0x21, 0xC8] = .ok (.setMaxVoltage 200, []) := by rfl
theorem test_decode_setSerialTimeout : decode [0x22, 0x9C, 0x31] = .ok (.setSerialTimeout 12700, []) := by rfl
theorem test_decode_setBaudRate : decode [0x23, 0x00, 0xC2, 0x01, 0x00] = .ok (.setBaudRate 115200, []) := by rfl
theorem test_decode_setRamping : decode [0x24, 0x80] = .ok (.setRamping 128, []) := by rfl
theorem test_decode_setDeadband : decode [0x25, 0xFF] = .ok (.setDeadband 255, []) := by rfl
theorem test_decode_checksum :
    decode [0x30, 0x05, 0x00, 0x80, 0x81, 0x04, 0x07, 0x09] = .ok (.checksum [0x80, 0x81, 0x04, 0x07, 0x09], []) := by rfl
theorem test_decode_mapRangeI :
    decode [0x31, 0x80, 0xFF, 0xFF, 0xFF, 0x7F, 0x00, 0x00, 0x00, 0xCC, 0x00, 0x00, 0x00, 0x99, 0x01, 0x00, 0x00, 0x01,
      0x02, 0x03, 0x04] = .ok (.mapRangeI (-128) 127 204 409 0x04030201, []) := by rfl
theorem test_decode_mapRangeF :
    decode [0x32, 0x00, 0x00, 0x96, 0x44, 0x00, 0x80, 0xBB, 0x44, 0x00, 0x00, 0x00, 0x00, 0x00, 0x00, 0x80, 0x3F, 0x00,
      0xC0, 0xA8, 0x44] = .ok (.mapRangeF 0x44960000 0x44BB8000 0 0x3F800000 0x44A8C000, []) := by rfl
theorem test_decode_ratioToValue : decode [0x33, 0x00, 0x00, 0x80, 0x3F] = .ok (.ratioToValue 0x3F800000, []) := by rfl
theorem test_decode_valueToRatio : decode [0x34, 0xFE, 0x0F, 0x00, 0x00] = .ok (.valueToRatio 4094, []) := by rfl
/-- 95_test_vectors.md 2.5: `02` is a request of its own, `10 05` the next one. -/
theorem test_decode_unassigned : decode [0x02, 0x10, 0x05] = .ok (.unassigned 0x02, [0x10, 0x05]) := by rfl
theorem test_decode_truncated : decode [0x23, 0x00, 0xC2, 0x01] = .error .truncated := by rfl

/-- Each of the 13 UNASSIGNED rows and 16 others of the table, by its match value, decodes to its row's request. -/
theorem test_decodeTableWord_rows :
    ([0x00, 0x02, 0x04, 0x08, 0x14, 0x18, 0x26, 0x28, 0x35, 0x36, 0x38, 0x40, 0x80].all fun w =>
      decodeTableWord 8 w == some (.unassigned (BitVec.ofNat 8 w))) = true ∧
    decodeTableWord 16 0x8101 = some (.setAddress 0x81) ∧ decodeTableWord 8 0x30 = some (.checksum []) ∧
    decodeTableWord 8 0x31 = some (.mapRangeI 0 0 0 0 0) := by decide

/-! ### One step, on a small state -/

/-- A state with the address 0x80, the next byte `b` of a request whose bytes `q` have come, and the answers given. -/
def small (q : List Byte) (b : Byte) : State :=
  { State.reset with addr := 0x80, phase := receivingPhase q, reqPort := [b] }

/-- A state that waits for the answer to the frame of `SET_BAUD_RATE 9600`. -/
def waiting (answers : List WriteAnswer) : State :=
  { State.reset with phase := .waitWrite 0x23 ⟨0x80, 0x0F, 0x02, 0x11⟩, writeAnswers := answers }

/-- The phase after one step, where the step answers a next state. -/
def phaseAfter (s : State) : Option Phase :=
  match step s with
  | .next t => some t.phase
  | .fault _ => none
  | .refused _ => none

theorem test_step_setAddress : phaseAfter (small [0x01] 0x81) = some (.responding [0x00, 0x00]) := by rfl
theorem test_step_driveM1_100 :
    phaseAfter (small [0x10] 0x64) = some (.waitWrite 0x10 ⟨0x80, 0x00, 0x64, 0x64⟩) := by rfl
theorem test_step_driveM1_min :
    phaseAfter (small [0x10] 0x80) = some (.waitWrite 0x10 ⟨0x80, 0x01, 0x7F, 0x00⟩) := by rfl
theorem test_step_driveM2_minus_1 :
    phaseAfter (small [0x11] 0xFF) = some (.waitWrite 0x11 ⟨0x80, 0x05, 0x01, 0x06⟩) := by rfl
theorem test_step_driveMixed_100 :
    phaseAfter (small [0x12] 0x64) = some (.waitWrite 0x12 ⟨0x80, 0x08, 0x64, 0x6C⟩) := by rfl
theorem test_step_turnMixed_minus_50 :
    phaseAfter (small [0x13] 0xCE) = some (.waitWrite 0x13 ⟨0x80, 0x0B, 0x32, 0x3D⟩) := by rfl
theorem test_step_setMinVoltage_30 :
    phaseAfter (small [0x20] 0x1E) = some (.waitWrite 0x20 ⟨0x80, 0x02, 0x1E, 0x20⟩) := by rfl
theorem test_step_setMaxVoltage_200 :
    phaseAfter (small [0x21] 0xC8) = some (.waitWrite 0x21 ⟨0x80, 0x03, 0xC8, 0x4B⟩) := by rfl
theorem test_step_setSerialTimeout_12699 :
    phaseAfter (small [0x22, 0x9B] 0x31) = some (.waitWrite 0x22 ⟨0x80, 0x0E, 0x7E, 0x0C⟩) := by rfl
theorem test_step_setSerialTimeout_12701 :
    phaseAfter (small [0x22, 0x9D] 0x31) = some (.responding [0x02, 0x00]) := by rfl
theorem test_step_setBaudRate_38400 :
    phaseAfter (small [0x23, 0x00, 0x96, 0x00] 0x00) = some (.waitWrite 0x23 ⟨0x80, 0x0F, 0x04, 0x13⟩) := by rfl
theorem test_step_setBaudRate_4800 :
    phaseAfter (small [0x23, 0xC0, 0x12, 0x00] 0x00) = some (.responding [0x02, 0x00]) := by rfl
theorem test_step_setRamping_254 :
    phaseAfter (small [0x24] 0xFE) = some (.waitWrite 0x24 ⟨0x80, 0x10, 0x4F, 0x5F⟩) := by rfl
theorem test_step_setDeadband_254 :
    phaseAfter (small [0x25] 0xFE) = some (.waitWrite 0x25 ⟨0x80, 0x11, 0x7E, 0x0F⟩) := by rfl
theorem test_step_checksum :
    phaseAfter (small [0x30, 0x05, 0x00, 0x80, 0x81, 0x04, 0x07] 0x09) = some (.responding [0x00, 0x00, 0x15]) := by rfl
theorem test_step_unassigned : phaseAfter (small [] 0xFF) = some (.responding [0x04, 0x00]) := by rfl
theorem test_step_partial : phaseAfter (small [] 0x10) = some (.receiving 0x10 []) := by rfl

/-- 95_test_vectors.md 2.3: `SET_BAUD_RATE 9600` whose write fails. -/
theorem test_write_fails : phaseAfter (waiting [.err 0x07 3]) = some (.responding [0x01, 0x07]) := by rfl
theorem test_write_then_baud : phaseAfter (waiting [.ok]) = some (.waitBaud 9600) := by rfl
theorem test_write_unanswered : phaseAfter (waiting []) = (some (waiting []).phase) := by rfl

/-- P5: reset in the middle of a request. -/
theorem test_reset_while_receiving :
    (match step { small [0x10] 0x05 with resetLine := [true] } with
      | .next t => (t.addr, t.phase, t.reqPort)
      | .fault _ => (0, .idle, [])
      | .refused _ => (0, .idle, [])) = (Config.defaultAddress, .idle, [0x05]) := by rfl

theorem test_withFetchWord_runs : phaseAfter (State.reset.withFetchWord 8 0x35) = some (.responding [0x04, 0x00]) := by rfl
theorem test_withFetchWord_baud_zero : phaseAfter (State.reset.withFetchWord 40 0x23) = some (.responding [0x02, 0x00]) := by
  rfl

end Sys2Proof.Tests
end

