-- ==== Sys2Proof/Tests/Witnesses.lean ====
section
/-! SUPPORT. For each statement of Certificates/Slice0/Obligations.lean that has hypotheses, values that meet them all; for one
with several clauses, values for each, at a boundary where it has one. -/

namespace Sys2Proof.Tests

open Sys2Proof Sys2Proof.Machine

/-- A state with a request at the port of an idle block, a transport that answers and a host that takes bytes. -/
def ready (q : List Byte) : State :=
  { State.reset with reqPort := q, hostReady := 6, writeAnswers := [.ok], baudAnswers := [.ok] }

theorem witness_DecodeInvertsEncode : (Instr.setBaudRate 9600).wellFormed = true := by decide
theorem witness_EncodeInvertsDecode : decode [0x13, 0x05, 0xFF] = .ok (.turnMixed 0x05, [0xFF]) := by rfl
theorem witness_RequestLengthFromOpcode :
    (0x25 : Byte) ∈ [(0x01 : Byte), 0x10, 0x11, 0x12, 0x13, 0x20, 0x21, 0x24, 0x25] ∧
    (0x34 : Byte) ∈ [(0x23 : Byte), 0x33, 0x34] ∧ (0x32 : Byte) ∈ [(0x31 : Byte), 0x32] ∧
    (0x35 : Byte) ∉ assignedOpcodes ∧ ([0x05] : List Byte).length < 2 := by decide
theorem witness_RequestsArePrefixFree :
    (Instr.mapRangeI 0 1 0 1 0).wellFormed = true ∧ 20 < (encode (Instr.mapRangeI 0 1 0 1 0)).length := by decide
theorem witness_EveryOperandPatternDecodes : 65538 ≤ (List.replicate 65538 (0 : Byte)).length := by
  rw [List.length_replicate]
theorem witness_UnassignedOpcodesAnswerUnknown :
    (0x00 : Byte).toNat = 0 ∧ 0x02 ≤ (0x0F : Byte).toNat ∧ (0x0F : Byte).toNat ≤ 0x0F ∧ 0x14 ≤ (0x14 : Byte).toNat ∧
    (0x2F : Byte).toNat ≤ 0x2F ∧ 0x35 ≤ (0x35 : Byte).toNat := by decide
theorem witness_StepRunsDecodedRequest_complete :
    resetAsserted (small [0x10] 0x64) = false ∧ acceptedBytes (small [0x10] 0x64).phase = some [0x10] ∧
    (small [0x10] 0x64).reqPort = 0x64 :: [] ∧ decode ([0x10] ++ [0x64]) = .ok (.driveM1 0x64, []) := ⟨rfl, rfl, rfl, rfl⟩
theorem witness_StepRunsDecodedRequest_partial :
    resetAsserted (small [] 0x10) = false ∧ acceptedBytes (small [] 0x10).phase = some [] ∧
    (small [] 0x10).reqPort = 0x10 :: [] ∧ [] ++ [(0x10 : Byte)] = 0x10 :: [] ∧
    decode ([] ++ [0x10]) = .error .truncated := ⟨rfl, rfl, rfl, rfl, rfl⟩
theorem witness_RequestBytesAcceptedInOrder : ∃ t, step (small [] 0x10) = .next t := ⟨_, rfl⟩
theorem witness_RequestRunsWhenReceived :
    (Instr.driveM2 0x80).wellFormed = true ∧ (ready (encode (.driveM2 0x80) ++ [0x01])).phase = .idle ∧
    (ready (encode (.driveM2 0x80) ++ [0x01])).resetLine = [] ∧
    (ready (encode (.driveM2 0x80) ++ [0x01])).reqPort = encode (.driveM2 0x80) ++ [0x01] := ⟨rfl, rfl, rfl, rfl⟩
theorem witness_SetAddressActsOnNextRequest :
    (Instr.driveM1 0).wellFormed = true ∧ (ready (0x01 :: 0x81 :: (encode (.driveM1 0) ++ []))).phase = .idle ∧
    (ready (0x01 :: 0x81 :: (encode (.driveM1 0) ++ []))).resetLine = [] ∧
    (ready (0x01 :: 0x81 :: (encode (.driveM1 0) ++ []))).hostReady = 4 + 2 ∧
    ∃ t, runSteps (4 + (encode (.driveM1 0)).length)
        (ready (0x01 :: 0x81 :: (encode (.driveM1 0) ++ []))) = .next t ∧
      t.phase = .waitWrite 0x10 ⟨0x81, 0x00, 0x00, 0x01⟩ := ⟨rfl, rfl, rfl, rfl, _, rfl, rfl⟩
theorem witness_MotorCommandsSplitBySign :
    0 ≤ (0x00 : Byte).toInt ∧ (0xFF : Byte).toInt < 0 ∧ (0x13 : Byte) ∈ [(0x10 : Byte), 0x11, 0x12, 0x13] := by decide
theorem witness_MotorEncodingLaws :
    codeM1Fwd ≠ codeM1Rev ∧ (0x80 : Byte) ≠ 0x82 ∧ ¬((0x80 : Byte).toInt ≤ -127 ∧ (0x82 : Byte).toInt ≤ -127) ∧
    0 ≤ (0x7F : Byte).toInt := by decide
/-- The three answers a write can have, for the statements that conclude by `writeConcludes` (R170). -/
theorem witness_writeConcludes :
    resetAsserted (waiting []) = false ∧ (waiting []).phase = .waitWrite 0x23 ⟨0x80, 0x0F, 0x02, 0x11⟩ ∧
    (waiting []).writeAnswers = [] ∧ (waiting [.err 0x07 4]).writeAnswers = .err 0x07 4 :: [] ∧
    (waiting [.ok]).writeAnswers = .ok :: [] := ⟨rfl, rfl, rfl, rfl, rfl⟩
theorem witness_VoltageCommandsWriteOperand : (0x20 : Byte) ∈ [(0x20 : Byte), 0x21] := by decide
theorem witness_SerialTimeoutMapsMilliseconds : 12700 < (12701 : Word16).toNat ∧ (12700 : Word16).toNat ≤ 12700 := by decide
theorem witness_TimeoutDataInTenths :
    (0 : Word16).toNat = 0 ∧ 1 ≤ (99 : Word16).toNat ∧ (99 : Word16).toNat ≤ 99 ∧ 100 ≤ (100 : Word16).toNat ∧
    (100 : Word16).toNat ≤ 12700 := by decide
theorem witness_BaudRateFiveRates :
    ((115200 : Word32), (5 : Byte)) ∈ [((2400 : Word32), (1 : Byte)), (9600, 2), (19200, 3), (38400, 4), (115200, 5)] ∧
    (4800 : Word32) ∉ [2400, 9600, 19200, 38400, (115200 : Word32)] := by decide
theorem witness_baudConcludes :
    (⟨0x80, 0x0F, 0x02, 0x11⟩ : Frame).b2 = 2 ∧
    resetAsserted { State.reset with phase := .waitBaud 9600 } = false ∧
    ({ State.reset with phase := .waitBaud 9600, baudAnswers := [.err 0x03 true] } : State).baudAnswers =
      .err 0x03 true :: [] := ⟨rfl, rfl, rfl⟩
theorem witness_RampingAndDeadbandMapLinearly : (0x25 : Byte) ∈ [(0x24 : Byte), 0x25] := by decide
theorem witness_BaudRateRunsWhole :
    (ready (encode (.setBaudRate 9600) ++ [])).phase = .idle ∧ (ready (encode (.setBaudRate 9600) ++ [])).resetLine = [] ∧
    (ready (encode (.setBaudRate 9600) ++ [])).hostReady = 4 + 2 ∧
    (ready (encode (.setBaudRate 9600) ++ [])).writeAnswers = .ok :: [] ∧
    (ready (encode (.setBaudRate 9600) ++ [])).baudAnswers = .ok :: [] := ⟨rfl, rfl, rfl, rfl, rfl⟩
theorem witness_ChecksumLaws : ([1, 2] : List Byte).Perm [2, 1] := List.Perm.swap 2 1 []
/-- Boundary operands for the three clauses of `MapRangeIExact`: degenerate, the largest result, and one above it. -/
theorem witness_MapRangeIExact :
    (5 : Word32).toInt = (5 : Word32).toInt ∧ (1 : Word32).toInt ≠ (0 : Word32).toInt ∧
    mapZ 0 1 0 2147483647 1 = 2 ^ 31 - 1 ∧ ¬mapZ 0 1 0 2147483647 2 ≤ 2 ^ 31 - 1 := by decide
theorem witness_MapZLaws : (0 : Int) < 1 ∧ (3 : Int) ≤ 3 ∧ (0 : Int) ≤ 1 := by decide
theorem witness_RoundingIsNearestEven : 0 < 3 ∧ fpRound false 7 3 = .fin false 2 ∧ representable 3 := by
  refine ⟨by decide, by decide +kernel, 3, 0, by decide, by decide, by decide⟩
/-- The clauses on sums, differences and divisors: not zero, and zero by cancelling and by two zeros. -/
theorem witness_RoundingIsNearestEven_zero :
    signedMag false 1 + signedMag false 0 ≠ 0 ∧ signedMag true 1 + signedMag false 1 = 0 ∧
    signedMag false 0 - signedMag true 1 ≠ 0 ∧ signedMag true 0 - signedMag false 0 = 0 ∧ (1 : Nat) ≠ 0 := by decide
theorem witness_FloatSpecialOperands : (1 : Nat) ≠ 0 ∧ fdiv (.fin true 1) (.fin false 0) = .inf true := by decide
/-- Half a unit above 2 and above 3: both are ties, to an even 2 and an even 4. -/
theorem witness_FloatToIntegerConversion :
    2 * (fconv .rne (.fin false (5 * 2 ^ 148)) * 2 ^ 149 - signedMag false (5 * 2 ^ 148)).natAbs = 2 ^ 149 ∧
    fconv .rne (.fin false (5 * 2 ^ 148)) = 2 ∧ fconv .rne (.fin false (7 * 2 ^ 148)) = 4 := by decide +kernel
theorem witness_RoundingIsNearestEven_overflow :
    (2 ^ 25 - 1) * 2 ^ 252 * 1 ≤ (2 ^ 25 - 1) * 2 ^ 252 ∧ fpRound true ((2 ^ 25 - 1) * 2 ^ 252) 1 = .inf true ∧
    fpRound true ((2 ^ 25 - 1) * 2 ^ 252 - 1) 1 = .fin true ((2 ^ 24 - 1) * 2 ^ 253) := by decide +kernel
theorem witness_FloatBitsRoundTrip : fpOfBits 0x00000001 ≠ .nan ∧ fpOfBits 0x7F800001 = .nan := by decide +kernel
theorem witness_FloatBitsRoundTrip_fields :
    (255 : BitVec 8) = 255 ∧ (0 : BitVec 23) = 0 ∧ (1 : BitVec 23) ≠ 0 ∧ (254 : BitVec 8) ≠ 255 ∧ (1 : BitVec 8) ≠ 0 := by decide
/-- `0.0, -0.0` is a degenerate range, and `0.0, 1.0` is none. -/
theorem witness_MapRangeFAnswers :
    fsub (fpOfBits 0x80000000) (fpOfBits 0) = .fin true 0 ∧ fsub (fpOfBits 0) (fpOfBits 0x80000000) = .fin false 0 ∧
    fsub (fpOfBits 0x00000001) (fpOfBits 0) = .fin false 1 := by decide +kernel
theorem witness_FloatRangeDegenerateWhenEqual :
    fpOfBits 0x80000000 = .fin true 0 ∧ fpOfBits 0 = .fin false 0 := by decide +kernel
theorem witness_RatioToValueAnswers :
    fpOfBits 0xBF800000 = .fin true (2 ^ 149) ∧ fpOfBits 0x3F800001 = .fin false (2 ^ 149 + 2 ^ 126) := by decide +kernel
theorem witness_RatioToValueAnswers_nan : ∀ neg m, fpOfBits 0x7FC00000 = .fin neg m → 2 ^ 149 < m := by
  have h : fpOfBits 0x7FC00000 = .nan := by decide +kernel
  intro neg m hm
  rw [h] at hm
  cases hm
theorem witness_ClampNeverActs : ratioInRange (fpOfBits 0xBF800000) = true := by decide +kernel
theorem witness_RatioRoundTrip :
    (-2047 : Int) ≤ (0xFFFFF801 : Word32).toInt ∧ (0xFFFFF801 : Word32).toInt ≤ 2047 := by decide
theorem witness_ResponseLayouts :
    ∃ t, exec (.checksum []) State.reset = .next t ∧ t.phase = .responding [0x00, 0x00, 0x00] := ⟨_, rfl, rfl⟩
/-- For the clause on requests that waited, also in `InvalidInputExactly` and `UnknownExactly`. -/
theorem witness_ResponseLayouts_waited :
    (∃ op f, (waiting [.err 0x02 0]).phase = .waitWrite op f) ∧
    ∃ t, step (waiting [.err 0x02 0]) = .next t ∧ t.phase = .responding [0x01, 0x02] := ⟨⟨_, _, rfl⟩, _, rfl, rfl⟩
theorem witness_InvalidInputExactly : refusesOperands (.setSerialTimeout 12701) := by
  show 12700 < (12701 : Word16).toNat
  decide
theorem witness_UnknownExactly : decode [0x35] = .ok (.unassigned 0x35, []) := by rfl
theorem witness_ResponseDelivered :
    ({ State.reset with phase := .responding [0x02, 0x00], hostReady := 3 } : State).hostReady = 1 + [0x02, 0x00].length ∧
    ({ State.reset with phase := .responding [0x02, 0x00], hostReady := 3 } : State).resetLine = [] ∧
    ([0x02, 0x00] : List Byte) ≠ [] := ⟨rfl, rfl, by decide⟩
theorem witness_ResponseBytesTakenInOrder :
    ∃ t, step { State.reset with phase := .responding [0x00], hostReady := 1 } = .next t ∧ t.taken = [0x00] ∧
      t.phase = .idle := ⟨_, rfl, rfl, rfl⟩
theorem witness_UntakenResponseWaits :
    ({ State.reset with phase := .responding [0x04, 0x00] } : State).phase = .responding (0x04 :: [0x00]) ∧
    ({ State.reset with phase := .responding [0x04, 0x00] } : State).hostReady = 0 := ⟨rfl, rfl⟩
theorem witness_EveryRequestGetsOneResponse :
    (Instr.valueToRatio 5).wellFormed = true ∧ (ready (encode (.valueToRatio 5) ++ [])).phase = .idle ∧
    (ready (encode (.valueToRatio 5) ++ [])).resetLine = [] ∧ 6 ≤ (ready (encode (.valueToRatio 5) ++ [])).hostReady ∧
    (ready (encode (.valueToRatio 5) ++ [])).writeAnswers = .ok :: [] ∧
    (ready (encode (.valueToRatio 5) ++ [])).baudAnswers = .ok :: [] := ⟨rfl, rfl, rfl, by decide, rfl, rfl⟩

/-- A legal state that waits for the transport, its frame the last operation offered. -/
def legalWaiting : State :=
  { waiting [.ok] with addr := 0x80, offered := [.write ⟨0x80, 0x0F, 0x02, 0x11⟩] }

theorem witness_ResetValues :
    resetAsserted { small [0x10] 0x05 with resetLine := [true] } = true ∧
    ∀ r, ({ small [0x10] 0x05 with resetLine := [true] } : State).phase ≠ .waitBaud r := ⟨rfl, fun _ h => nomatch h⟩

theorem witness_StepKeepsLegal : Legal legalWaiting ∧ ∃ t, step legalWaiting = .next t ∧ t.phase = .waitBaud 9600 :=
  ⟨⟨⟨rfl, by decide, by decide, fun _ => by decide, rfl⟩, by unfold legalHistory; decide⟩, _, rfl, rfl⟩
theorem witness_StepKeepsBaudAfterFrame : BaudFollowsFrame legalWaiting.offered := by
  intro before r after h
  match before, h with
  | [], h => exact nomatch h
  | [_], h => exact nomatch h
  | _ :: _ :: _, h => exact nomatch h
theorem witness_OneTransportOperationOutstanding : ∃ t, step (waiting [.ok]) = .next t ∧ t.offered ≠ (waiting [.ok]).offered :=
  ⟨_, rfl, by decide⟩
theorem witness_AddressChangesOnlyBySetAddressOrReset :
    ∃ t, step (small [0x01] 0x81) = .next t ∧ t.addr ≠ (small [0x01] 0x81).addr := ⟨_, rfl, by decide⟩
theorem witness_LineRateChangesOnlyByTxSetBaud :
    ∃ t, step { State.reset with phase := .waitBaud 9600, lineRate := 2400, baudAnswers := [.ok] } = .next t ∧
      t.lineRate ≠ 2400 := ⟨_, rfl, by decide⟩
theorem witness_LineGrowsOnlyByWaitingFrame :
    ∃ t, step (waiting [.err 0x07 4]) = .next t ∧ t.line = [0x80, 0x0F, 0x02, 0x11] ∧ (waiting [.err 0x07 4]).line = [] :=
  ⟨_, rfl, rfl, rfl⟩
/-- A frame request, whatever the draws, and a MAP_RANGE_F with equal draws. -/
theorem witness_RequestReadsOnlyAddress :
    ({ ready [0x01] with nanDraws := 1 } : State).addr = State.reset.addr ∧
    ¬(∃ fl fh tl th v, Instr.driveM1 5 = .mapRangeF fl fh tl th v) ∧
    (ready [0x01]).nanDraws = State.reset.nanDraws := ⟨rfl, (nomatch ·), rfl⟩
theorem witness_HostCannotReadAddress :
    alikeButAddr { ready [0x10, 0x05] with addr := 0x80 } { ready [0x10, 0x05] with addr := 0x81 } ∧
    (∃ t, reaches 3 { ready [0x10, 0x05] with addr := 0x80 } t) ∧ ∃ t, reaches 3 { ready [0x10, 0x05] with addr := 0x81 } t :=
  ⟨⟨rfl, rfl, rfl, rfl, rfl, rfl, rfl, rfl, rfl⟩, ⟨_, rfl⟩, ⟨_, rfl⟩⟩
theorem witness_UnansweredTransportWaitsForReset :
    (∃ op f, (waiting []).phase = .waitWrite op f ∧ (waiting []).writeAnswers = []) ∧ (waiting []).resetLine = [] ∧
    resetAsserted { waiting [] with resetLine := [true] } = true := ⟨⟨_, _, rfl, rfl⟩, rfl, rfl⟩
/-- Also for `ResetFromAnyState`, at both ends of the prefix range. -/
theorem witness_ResetAdmitsEveryOutcome :
    resetAsserted { waiting [] with resetLine := [true] } = true ∧
    ({ waiting [] with resetLine := [true] } : State).phase = .waitWrite 0x23 ⟨0x80, 0x0F, 0x02, 0x11⟩ ∧ 0 ≤ 4 ∧ 4 ≤ 4 ∧
    resetAsserted { State.reset with phase := .waitBaud 9600, resetLine := [true] } = true := by
  refine ⟨rfl, rfl, by decide, by decide, rfl⟩
theorem witness_FirstByteAfterResetIsOpcode :
    ({ small [0x10] 0x10 with resetLine := [true] } : State).resetLine = [true] ∧
    ({ small [0x10] 0x10 with resetLine := [true] } : State).reqPort = 0x10 :: [] ∧
    decode [0x10] = .error .truncated ∧ decode [0x02] = .ok (.unassigned 0x02, []) := ⟨rfl, rfl, rfl, rfl⟩

end Sys2Proof.Tests
end

section
/-! Binary32 rounding (00_scope.md R12): `rneDiv` gives the nearest whole number, `fpRound` the nearest representable
magnitude, and what the primitives of Machine/Float.lean answer on each kind of operand. -/

namespace Sys2Proof.Machine

/-! ### Rounding a fraction to a whole number -/

theorem mul_add_le_mul_of_lt {a b : Nat} (den : Nat) (h : a < b) : a * den + den ≤ b * den :=
  (Nat.succ_mul a den).symm.le.trans (Nat.mul_le_mul_right den h)

/-- The rounded quotient is within half of the fraction, and even where it is exactly half away. -/
theorem rneDiv_within_half {den : Nat} (num : Nat) (hden : 0 < den) :
    2 * distance num den (rneDiv num den) ≤ den ∧
      (2 * distance num den (rneDiv num den) = den → rneDiv num den % 2 = 0) := by
  have hdiv : (num : Int) = (num / den : Nat) * (den : Int) + (num % den : Nat) := by
    exact_mod_cast (Nat.div_add_mod' num den).symm
  have hmod : num % den < den := Nat.mod_lt _ hden
  unfold rneDiv
  generalize num / den = q, num % den = r at hdiv hmod
  have hfloor : distance num den q = r := by
    unfold distance; omega
  have hceil : distance num den (q + 1) = den - r := by
    unfold distance; push_cast; rw [add_mul, one_mul]; omega
  dsimp only
  split
  · omega
  · split
    · omega
    · split <;> omega

theorem rneDiv_mul_bounds {den : Nat} (num : Nat) (hden : 0 < den) :
    2 * (rneDiv num den * den) ≤ 2 * num + den ∧ 2 * num ≤ 2 * (rneDiv num den * den) + den := by
  have hhalf := (rneDiv_within_half num hden).1
  unfold distance at hhalf
  rw [← Nat.cast_mul] at hhalf
  omega

theorem le_rneDiv {num den j : Nat} (hden : 0 < den) (h : j * den ≤ num) : j ≤ rneDiv num den := by
  have hround := (rneDiv_mul_bounds num hden).2
  by_contra hlt
  have hstep := mul_add_le_mul_of_lt den (Nat.not_le.1 hlt)
  omega

theorem rneDiv_le {num den j : Nat} (hden : 0 < den) (h : num ≤ j * den) : rneDiv num den ≤ j := by
  have hround := (rneDiv_mul_bounds num hden).1
  by_contra hlt
  have hstep := mul_add_le_mul_of_lt den (Nat.not_le.1 hlt)
  omega

/-- `rneDiv` is nearest: no whole number is nearer, and one as near leaves an even choice. -/
theorem rneDiv_nearest {den : Nat} (num : Nat) (hden : 0 < den) (j : Nat) :
    distance num den (rneDiv num den) ≤ distance num den j ∧
      (j ≠ rneDiv num den → distance num den (rneDiv num den) = distance num den j → rneDiv num den % 2 = 0) := by
  obtain ⟨hhalf, htie⟩ := rneDiv_within_half num hden
  by_cases hj : j = rneDiv num den
  · subst hj
    exact ⟨le_rfl, fun h => absurd rfl h⟩
  · have hgap : den ≤ distance num den (rneDiv num den) + distance num den j := by
      unfold distance
      simp only [← Nat.cast_mul]
      rcases Nat.lt_or_gt_of_ne hj with hlt | hlt
      · have hstep := mul_add_le_mul_of_lt den hlt
        omega
      · have hstep := mul_add_le_mul_of_lt den hlt
        omega
    exact ⟨by omega, fun _ heq => htie (by omega)⟩

/-- An even number is also what the midpoint below it rounds to. -/
theorem rneDiv_lt_iff_of_even {num den j : Nat} (hden : 0 < den) (hj : 0 < j) (heven : j % 2 = 0) :
    rneDiv num den < j ↔ 2 * num < (2 * j - 1) * den := by
  obtain ⟨hupper, hlower⟩ := rneDiv_mul_bounds num hden
  obtain ⟨i, rfl⟩ : ∃ i, j = i + 1 := ⟨j - 1, by omega⟩
  have hodd : (2 * (i + 1) - 1) * den = 2 * (i * den) + den := by
    rw [show 2 * (i + 1) - 1 = 2 * i + 1 by omega]; ring
  rw [hodd]
  constructor
  · intro hlt
    by_contra hge
    have hle : rneDiv num den * den ≤ i * den := Nat.mul_le_mul_right _ (by omega)
    have hi : rneDiv num den = i := Nat.eq_of_mul_eq_mul_right hden (by omega)
    have htie : 2 * distance num den i = den := by
      unfold distance
      rw [hi] at hupper hlower
      rw [← Nat.cast_mul]
      omega
    have := hi ▸ (rneDiv_within_half num hden).2 (hi ▸ htie)
    omega
  · intro hlt
    by_contra hge
    have hstep : i * den + den ≤ rneDiv num den * den := mul_add_le_mul_of_lt den (by omega)
    omega

/-! ### The scale of a significand -/

/-- `num / den` has a significand of at most 24 bits in units of `2 ^ k`, and of exactly 24 unless `k` is 0. -/
def scaleFits (num den k : Nat) : Prop :=
  num < 2 ^ 24 * (den * 2 ^ k) ∧ (k = 0 ∨ 2 ^ 23 * (den * 2 ^ k) ≤ num)

theorem lt_two_pow_fpScale (q : Nat) : q < 2 ^ (24 + fpScale q) :=
  calc q < 2 ^ (q.log2 + 1) := Nat.lt_log2_self
    _ ≤ 2 ^ (24 + fpScale q) := Nat.pow_le_pow_right (by decide) (by unfold fpScale; omega)

theorem fpScale_zero_or_le (q : Nat) : fpScale q = 0 ∨ 2 ^ (23 + fpScale q) ≤ q := by
  by_cases h : q.log2 ≤ 23
  · exact .inl (by unfold fpScale; omega)
  · have hlog : 23 + fpScale q = q.log2 := by unfold fpScale; omega
    have hq : q ≠ 0 := by rintro rfl; exact h (by decide)
    exact .inr (hlog ▸ Nat.log2_self_le hq)

theorem scaleFits_fpScale {den : Nat} (num : Nat) (hden : 0 < den) : scaleFits num den (fpScale (num / den)) := by
  have hshift : ∀ i k, 2 ^ i * (den * 2 ^ k) = 2 ^ (i + k) * den := by intro i k; rw [pow_add]; ring
  refine ⟨?_, (fpScale_zero_or_le (num / den)).imp_right fun hle => ?_⟩
  · rw [hshift]
    exact (Nat.div_lt_iff_lt_mul hden).1 (lt_two_pow_fpScale _)
  · rw [hshift]
    exact (Nat.le_div_iff_mul_le hden).1 hle

/-- A normal significand, or any at the least scale, says which scale its magnitude has. -/
theorem fpScale_mul_two_pow {r k : Nat} (hr : r < 2 ^ 24) (hk : k = 0 ∨ 2 ^ 23 ≤ r) : fpScale (r * 2 ^ k) = k := by
  rcases hk with rfl | hk
  · have hlog : r.log2 < 24 := by
      by_cases h0 : r = 0
      · subst h0; decide
      · exact (Nat.log2_lt h0).2 hr
    rw [pow_zero, mul_one]
    unfold fpScale; omega
  · have hlog : (r * 2 ^ k).log2 = 23 + k := by
      refine (Nat.log2_eq_iff (by positivity)).2 ⟨?_, ?_⟩
      · rw [pow_add]; exact Nat.mul_le_mul_right _ hk
      · rw [show 23 + k + 1 = 24 + k by omega, pow_add]
        exact Nat.mul_lt_mul_of_pos_right hr (by positivity)
    unfold fpScale; omega

/-! ### The rounded magnitude -/

theorem distance_mul_two_pow (num den k r : Nat) : distance num den (r * 2 ^ k) = distance num (den * 2 ^ k) r := by
  unfold distance
  congr 1
  push_cast
  ring

/-- Below the fraction, a smaller magnitude is farther away. -/
theorem distance_lt_of_lt {num den m m' : Nat} (hden : 0 < den) (hlt : m' < m) (hle : m * den ≤ num) :
    distance num den m < distance num den m' := by
  have hmul : m' * den < m * den := Nat.mul_lt_mul_of_pos_right hlt hden
  zify at hmul hle
  unfold distance
  omega

/-- A representable magnitude is a whole number of units of any scale that fits, or lies below all normal significands of it. -/
theorem representable_cases {m : Nat} (h : representable m) (k : Nat) :
    (∃ j, m = j * 2 ^ k) ∨ (k ≠ 0 ∧ m < 2 ^ 23 * 2 ^ k) := by
  obtain ⟨n, i, hn, -, rfl⟩ := h
  by_cases hik : k ≤ i
  · exact .inl ⟨n * 2 ^ (i - k), by rw [mul_assoc, ← pow_add, Nat.sub_add_cancel hik]⟩
  · refine .inr ⟨by omega, ?_⟩
    calc n * 2 ^ i < 2 ^ 24 * 2 ^ i := Nat.mul_lt_mul_of_pos_right hn (by positivity)
      _ = 2 ^ 23 * 2 ^ (i + 1) := by ring
      _ ≤ 2 ^ 23 * 2 ^ k := Nat.mul_le_mul_left _ (Nat.pow_le_pow_right (by decide) (by omega))

section Rounded
variable {num den k : Nat}

theorem significand_le (hden : 0 < den) (hk : scaleFits num den k) : rneDiv num (den * 2 ^ k) ≤ 2 ^ 24 :=
  rneDiv_le (by positivity) hk.1.le

theorem le_significand (hden : 0 < den) (hk : scaleFits num den k) : k = 0 ∨ 2 ^ 23 ≤ rneDiv num (den * 2 ^ k) :=
  hk.2.imp_right fun h => le_rneDiv (by positivity) h

/-- Among the representable magnitudes none is nearer than the rounded one; where another is as near, the significand is
even. -/
theorem rounded_nearest (hden : 0 < den) (hk : scaleFits num den k) {m' : Nat} (hm' : representable m') :
    distance num den (rneDiv num (den * 2 ^ k) * 2 ^ k) ≤ distance num den m' ∧
      (m' ≠ rneDiv num (den * 2 ^ k) * 2 ^ k →
        distance num den (rneDiv num (den * 2 ^ k) * 2 ^ k) = distance num den m' →
        rneDiv num (den * 2 ^ k) % 2 = 0) := by
  have hnear := rneDiv_nearest num (den := den * 2 ^ k) (by positivity)
  simp only [← distance_mul_two_pow] at hnear
  rcases representable_cases hm' k with ⟨j, rfl⟩ | ⟨hk0, hlt⟩
  · obtain ⟨hle, htie⟩ := hnear j
    exact ⟨hle, fun hne => htie fun hj => hne (by rw [hj])⟩
  · have hnormal : 2 ^ 23 * 2 ^ k * den ≤ num := by
      have := hk.2.resolve_left hk0
      rwa [mul_comm den, ← mul_assoc] at this
    have hfar := (hnear (2 ^ 23)).1.trans_lt (distance_lt_of_lt hden hlt hnormal)
    exact ⟨hfar.le, fun _ heq => absurd heq hfar.ne⟩

/-- The rounded magnitude in its own scale, one above `k` where the rounding carried out of 24 bits. -/
theorem rounded_normalForm (hden : 0 < den) (hk : scaleFits num den k) :
    ∃ r i, rneDiv num (den * 2 ^ k) * 2 ^ k = r * 2 ^ i ∧ r < 2 ^ 24 ∧ (i = 0 ∨ 2 ^ 23 ≤ r) ∧
      (rneDiv num (den * 2 ^ k) % 2 = 0 → r % 2 = 0) := by
  rcases (significand_le hden hk).lt_or_eq with hlt | hcarry
  · exact ⟨_, k, rfl, hlt, le_significand hden hk, id⟩
  · refine ⟨2 ^ 23, k + 1, ?_, by decide, .inr le_rfl, fun _ => by decide⟩
    rw [hcarry]; ring

theorem rounded_representable (hden : 0 < den) (hk : scaleFits num den k)
    (hlt : rneDiv num (den * 2 ^ k) * 2 ^ k < fpTooLarge) : representable (rneDiv num (den * 2 ^ k) * 2 ^ k) := by
  obtain ⟨r, i, hmag, hr, hi, -⟩ := rounded_normalForm hden hk
  refine ⟨r, i, hr, ?_, hmag⟩
  rcases hi with rfl | hi
  · exact Nat.zero_le _
  · have hpow : 2 ^ (23 + i) < 2 ^ 277 :=
      calc 2 ^ (23 + i) = 2 ^ 23 * 2 ^ i := pow_add ..
        _ ≤ r * 2 ^ i := Nat.mul_le_mul_right _ hi
        _ < 2 ^ 277 := hmag ▸ hlt
    have := (Nat.pow_lt_pow_iff_right (by decide)).1 hpow
    omega

/-- An even significand stays even where the rounding carried out of 24 bits. -/
theorem rounded_significand_even (hden : 0 < den) (hk : scaleFits num den k)
    (heven : rneDiv num (den * 2 ^ k) % 2 = 0) :
    rneDiv num (den * 2 ^ k) * 2 ^ k / 2 ^ fpScale (rneDiv num (den * 2 ^ k) * 2 ^ k) % 2 = 0 := by
  obtain ⟨r, i, hmag, hr, hi, hreven⟩ := rounded_normalForm hden hk
  rw [hmag, fpScale_mul_two_pow hr hi, Nat.mul_div_cancel _ (by positivity)]
  exact hreven heven

/-- The rounding overflows exactly from the midpoint above the largest finite value on. -/
theorem rounded_lt_tooLarge_iff (hden : 0 < den) (hk : scaleFits num den k) :
    rneDiv num (den * 2 ^ k) * 2 ^ k < fpTooLarge ↔ num < (2 ^ 25 - 1) * 2 ^ 252 * den := by
  obtain ⟨hlt, hnormal⟩ := hk
  have htooLarge : ∀ i, i ≤ 277 → fpTooLarge = 2 ^ (277 - i) * 2 ^ i := by
    intro i hi
    rw [← pow_add, Nat.sub_add_cancel hi]; rfl
  rcases lt_trichotomy k 253 with hsmall | rfl | hlarge
  · have hpow : 2 ^ k ≤ 2 ^ 252 := Nat.pow_le_pow_right (by decide) (by omega)
    refine iff_of_true ?_ ?_
    · calc rneDiv num (den * 2 ^ k) * 2 ^ k ≤ 2 ^ 24 * 2 ^ 252 := Nat.mul_le_mul (significand_le hden ⟨hlt, hnormal⟩) hpow
        _ < 2 ^ 25 * 2 ^ 252 := Nat.mul_lt_mul_of_pos_right (by decide) (by positivity)
        _ = fpTooLarge := (htooLarge 252 (by decide)).symm
    · calc num < 2 ^ 24 * (den * 2 ^ k) := hlt
        _ ≤ 2 ^ 24 * (den * 2 ^ 252) := by gcongr
        _ = 2 ^ 24 * 2 ^ 252 * den := by ring
        _ ≤ (2 ^ 25 - 1) * 2 ^ 252 * den := by gcongr; decide
  · rw [htooLarge 253 (by decide), Nat.mul_lt_mul_right (by positivity),
      rneDiv_lt_iff_of_even (by positivity) (by decide) (by decide)]
    have hhalf : den * 2 ^ 253 = 2 * (2 ^ 252 * den) := by rw [pow_succ]; ring
    rw [hhalf, mul_assoc (2 ^ 25 - 1)]
    generalize 2 ^ 252 * den = u
    omega
  · have hpow : 2 ^ 254 ≤ 2 ^ k := Nat.pow_le_pow_right (by decide) (by omega)
    refine iff_of_false (Nat.not_lt.2 ?_) (Nat.not_lt.2 ?_)
    · calc fpTooLarge = 2 ^ 23 * 2 ^ 254 := htooLarge 254 (by decide)
        _ ≤ rneDiv num (den * 2 ^ k) * 2 ^ k :=
          Nat.mul_le_mul ((le_significand hden ⟨hlt, hnormal⟩).resolve_left (by omega)) hpow
    · calc (2 ^ 25 - 1) * 2 ^ 252 * den ≤ 2 ^ 25 * 2 ^ 252 * den := by gcongr; decide
        _ = 2 ^ 23 * (den * 2 ^ 254) := by rw [show 254 = 2 + 252 from rfl, pow_add 2 2]; ring
        _ ≤ 2 ^ 23 * (den * 2 ^ k) := by gcongr
        _ ≤ num := hnormal.resolve_left (by omega)

end Rounded

theorem fpRound_correctlyRounded (neg : Bool) (num : Nat) {den : Nat} (hden : 0 < den) :
    correctlyRounded neg num den (fpRound neg num den) := by
  have hk := scaleFits_fpScale num hden
  have hover := rounded_lt_tooLarge_iff hden hk
  unfold correctlyRounded fpRound
  dsimp only
  generalize fpScale (num / den) = k at hk hover
  split
  · next hinf => exact if_neg (hover.not.2 (Nat.not_lt.2 hinf))
  · next hfin =>
    have hlt := hover.2 (Nat.not_le.1 hfin)
    refine ⟨_, if_pos hlt, rounded_representable hden hk hlt, fun m' hm' => ?_⟩
    obtain ⟨hnear, heven⟩ := rounded_nearest hden hk hm'
    exact ⟨hnear, fun hne heq => rounded_significand_even hden hk (heven hne heq)⟩

theorem representable_lt {m : Nat} (h : representable m) : m < (2 ^ 25 - 1) * 2 ^ 252 := by
  obtain ⟨n, k, hn, hk, rfl⟩ := h
  calc n * 2 ^ k ≤ (2 ^ 24 - 1) * 2 ^ 253 :=
        Nat.mul_le_mul (by omega) (Nat.pow_le_pow_right (by decide) hk)
    _ < (2 ^ 25 - 1) * 2 ^ 252 := by
      rw [pow_succ 2 252, mul_comm _ 2, ← mul_assoc]
      exact Nat.mul_lt_mul_of_pos_right (by decide) (by positivity)

/-- Rounding keeps a representable bound. -/
theorem correctlyRounded_le {neg : Bool} {num den bound : Nat} {r : Fp} (hden : 0 < den) (hb : representable bound)
    (hle : num ≤ bound * den) (hr : correctlyRounded neg num den r) : ∃ m, r = .fin neg m ∧ m ≤ bound := by
  have hfin : ¬(2 ^ 25 - 1) * 2 ^ 252 * den ≤ num :=
    Nat.not_le.2 (hle.trans_lt (Nat.mul_lt_mul_of_pos_right (representable_lt hb) hden))
  unfold correctlyRounded at hr
  rw [if_neg hfin] at hr
  obtain ⟨m, hm, -, hnear⟩ := hr
  refine ⟨m, hm, Nat.not_lt.1 fun hlt => ?_⟩
  have hmul : bound * den < m * den := Nat.mul_lt_mul_of_pos_right hlt hden
  have hdist := (hnear bound hb).1
  unfold distance at hdist
  zify at hle hmul
  omega

/-! ### The primitives on finite operands -/

theorem fadd_fin (a b : Bool) (m n : Nat) :
    fadd (.fin a m) (.fin b n) =
      if signedMag a m + signedMag b n = 0 then .fin (a && b) 0
      else fpRound (decide (signedMag a m + signedMag b n < 0)) (signedMag a m + signedMag b n).natAbs 1 := rfl

@[simp] theorem signedMag_false (m : Nat) : signedMag false m = m := rfl

@[simp] theorem signedMag_true (m : Nat) : signedMag true m = -(m : Int) := rfl

theorem signedMag_not (b : Bool) (n : Nat) : signedMag (!b) n = -signedMag b n := by
  cases b <;> simp

theorem fsub_fin (a b : Bool) (m n : Nat) :
    fsub (.fin a m) (.fin b n) =
      if signedMag a m - signedMag b n = 0 then .fin (a && !b) 0
      else fpRound (decide (signedMag a m - signedMag b n < 0)) (signedMag a m - signedMag b n).natAbs 1 := by
  rw [sub_eq_add_neg, ← signedMag_not]
  rfl

theorem fmul_fin (a b : Bool) (m n : Nat) : fmul (.fin a m) (.fin b n) = fpRound (a != b) (m * n) (2 ^ 149) := rfl

theorem fdiv_fin (a b : Bool) (m : Nat) {n : Nat} (hn : n ≠ 0) :
    fdiv (.fin a m) (.fin b n) = fpRound (a != b) (m * 2 ^ 149) n := if_neg hn

theorem fpOfInt_eq (v : Int) : fpOfInt v = fpRound (decide (v < 0)) (v.natAbs * 2 ^ 149) 1 := rfl

theorem fpOfInt_2047 : fpOfInt 2047 = .fin false (2047 * 2 ^ 149) := by decide +kernel

theorem ratioInRange_cases {a : Fp} (h : ratioInRange a = true) : ∃ neg m, a = .fin neg m ∧ m ≤ 2 ^ 149 := by
  unfold ratioInRange at h
  rw [Bool.and_eq_true] at h
  obtain ⟨hlow, hhigh⟩ := h
  cases a with
  | nan => cases hhigh
  | inf neg => cases neg <;> contradiction
  | fin neg m =>
    refine ⟨neg, m, rfl, ?_⟩
    replace hlow := of_decide_eq_true hlow
    replace hhigh := of_decide_eq_true hhigh
    unfold fpOne at hlow hhigh
    cases neg <;> simp only [signedMag_false, signedMag_true] at hlow hhigh <;> omega

/-! ### Conversion to an integer -/

theorem fconv_trunc (neg : Bool) (m : Nat) : fconv .trunc (.fin neg m) = signedMag neg (m / 2 ^ 149) := rfl

theorem fconv_rne (neg : Bool) (m : Nat) : fconv .rne (.fin neg m) = signedMag neg (rneDiv m (2 ^ 149)) := rfl

theorem signedMag_div (neg : Bool) (m n : Nat) : signedMag neg (m / n) = Int.tdiv (signedMag neg m) n := by
  cases neg with
  | false => simp [Int.tdiv_eq_ediv_of_nonneg]
  | true => simp [Int.neg_tdiv, Int.tdiv_eq_ediv_of_nonneg]

theorem natAbs_signedMag_error (neg : Bool) (q m n : Nat) :
    (signedMag neg q * n - signedMag neg m).natAbs = distance m n q := by
  unfold distance
  cases neg with
  | false => rw [signedMag_false, signedMag_false]; omega
  | true => rw [signedMag_true, signedMag_true, neg_mul]; omega

theorem signedMag_bounds {q b : Nat} (neg : Bool) (h : q ≤ b) : -(b : Int) ≤ signedMag neg q ∧ signedMag neg q ≤ b := by
  cases neg <;> simp only [signedMag_false, signedMag_true] <;> omega

theorem signedMag_even {q : Nat} (neg : Bool) (h : q % 2 = 0) : signedMag neg q % 2 = 0 := by
  cases neg <;> simp only [signedMag_false, signedMag_true] <;> omega

theorem fconv_bounds {m b : Nat} (conv : RatioConv) (neg : Bool) (h : m ≤ b * 2 ^ 149) :
    -(b : Int) ≤ fconv conv (.fin neg m) ∧ fconv conv (.fin neg m) ≤ b := by
  cases conv with
  | trunc => exact signedMag_bounds neg (Nat.div_le_of_le_mul (by rwa [mul_comm]))
  | rne => exact signedMag_bounds neg (rneDiv_le (by decide) h)

/-! ### NaN, infinities and zero divisors -/

theorem fadd_nan_right (x : Fp) : fadd x .nan = .nan := by cases x <;> rfl

theorem fsub_nan_right (x : Fp) : fsub x .nan = .nan := fadd_nan_right x

theorem fmul_nan_right (x : Fp) : fmul x .nan = .nan := by cases x <;> rfl

theorem fdiv_nan_right (x : Fp) : fdiv x .nan = .nan := by cases x <;> rfl

theorem fpLe_nan_right (x : Fp) : fpLe x .nan = false := by cases x <;> rfl

theorem fsub_inf_inf (a b : Bool) : fsub (.inf a) (.inf b) = if a = b then .nan else .inf a := by
  cases a <;> cases b <;> rfl

theorem fpLe_inf_inf (a b : Bool) : fpLe (.inf a) (.inf b) = true ↔ a = true ∨ b = false := by
  cases b <;> simp [fpLe]

theorem fmul_inf_fin (a b : Bool) {m : Nat} (hm : m ≠ 0) : fmul (.inf a) (.fin b m) = .inf (a != b) := if_neg hm

theorem fmul_fin_inf (a b : Bool) {m : Nat} (hm : m ≠ 0) : fmul (.fin b m) (.inf a) = .inf (b != a) := if_neg hm

theorem fdiv_fin_zero (a b : Bool) {m : Nat} (hm : m ≠ 0) : fdiv (.fin a m) (.fin b 0) = .inf (a != b) := by
  simp [fdiv, hm]

theorem fpLe_fin (a b : Bool) (m n : Nat) : fpLe (.fin a m) (.fin b n) = true ↔ signedMag a m ≤ signedMag b n :=
  decide_eq_true_iff

theorem fpIsZero_iff (x : Fp) : fpIsZero x = true ↔ x = .fin false 0 ∨ x = .fin true 0 := by
  cases x with
  | nan => simp [fpIsZero]
  | inf neg => simp [fpIsZero]
  | fin neg m => cases neg <;> simp [fpIsZero]

end Sys2Proof.Machine
end

section
/-! The claims about binary32 and about the bytes of a frame (00_scope.md R12, R16). -/

open Sys2Proof Sys2Proof.Machine

/-- Settles O27: every primitive is one `fpRound` of the exact result, and `fpRound` is correctly rounded. -/
theorem roundingIsNearestEven : Obligations.RoundingIsNearestEven := by
  refine ⟨fun neg num den => fpRound_correctlyRounded neg num, fun a b m n => ?_,
    fun v => fpOfInt_eq v ▸ fpRound_correctlyRounded _ _ one_pos⟩
  refine ⟨fun hsum => ?sum, fun hsum => ?zeroSum, fun hdiff => ?difference, fun hdiff => ?zeroDifference, ?product,
    fun hn => ?quotient⟩
  case sum =>
    rw [fadd_fin, if_neg hsum]
    exact fpRound_correctlyRounded _ _ one_pos
  case zeroSum => rw [fadd_fin, if_pos hsum]
  case difference =>
    rw [fsub_fin, if_neg hdiff]
    exact fpRound_correctlyRounded _ _ one_pos
  case zeroDifference => rw [fsub_fin, if_pos hdiff]
  case product =>
    rw [fmul_fin]
    exact fpRound_correctlyRounded _ _ (by positivity)
  case quotient =>
    rw [fdiv_fin a b m hn]
    exact fpRound_correctlyRounded _ _ (Nat.pos_of_ne_zero hn)

/-- Settles O32: 2047.0 is representable, so rounding keeps the product at most 2047.0, and so does converting it. -/
theorem clampNeverActs : Obligations.ClampNeverActs := by
  intro a ha
  obtain ⟨neg, m, rfl, hm⟩ := ratioInRange_cases ha
  have hscale : representable (2047 * 2 ^ 149) := ⟨2047, 149, by decide, by decide, rfl⟩
  have hexact : m * (2047 * 2 ^ 149) ≤ 2047 * 2 ^ 149 * 2 ^ 149 := by
    rw [mul_comm]
    exact Nat.mul_le_mul_left _ hm
  obtain ⟨p, hp, hle⟩ := correctlyRounded_le (by positivity) hscale hexact
    (fpRound_correctlyRounded (neg != false) _ (by positivity))
  have hproduct : fmul (.fin neg m) (fpOfInt 2047) = .fin (neg != false) p := by rw [fpOfInt_2047, fmul_fin, hp]
  rw [hproduct]
  exact ⟨⟨_, p, rfl, hle⟩, fun conv => fconv_bounds conv _ hle⟩

/-- Settles O56: both conversions act on the magnitude, and the error of RNE is the distance `rneDiv` leaves. -/
theorem floatToIntegerConversion : Obligations.FloatToIntegerConversion := by
  intro neg m
  obtain ⟨hhalf, htie⟩ := rneDiv_within_half m (den := 2 ^ 149) (by positivity)
  have herror := natAbs_signedMag_error neg (rneDiv m (2 ^ 149)) m (2 ^ 149)
  refine ⟨(fconv_trunc neg m).trans (signedMag_div neg m (2 ^ 149)), ?_⟩
  rw [fconv_rne]
  rw [← herror] at hhalf htie
  exact ⟨hhalf, fun h => signedMag_even neg (htie h)⟩

/-- Settles O21: masking to 7 bits is the remainder modulo 128 of the frame written out. -/
theorem frameBytes : Obligations.FrameBytes := by
  intro addr c d
  have hmask : (addr.toNat + c.toNat + d.toNat) &&& 0x7F = (addr.toNat + c.toNat + d.toNat) % 128 :=
    Nat.and_two_pow_sub_one_eq_mod _ 7
  rw [frame_eq_wireFrame, hmask]
  rfl

/-- Settles O55, one conjunct for each kind of operands; where no lemma is named the clause is the primitive's own equation. -/
theorem floatSpecialOperands : Obligations.FloatSpecialOperands := by
  refine ⟨fun x => ?nan, fun a b => ?infinities, fun a b m => ?mixed, fpLe_fin, fpIsZero_iff⟩
  case nan =>
    exact ⟨rfl, fadd_nan_right x, rfl, fsub_nan_right x, rfl, fmul_nan_right x, rfl, fdiv_nan_right x, rfl,
      fpLe_nan_right x⟩
  case infinities => exact ⟨rfl, fsub_inf_inf a b, rfl, rfl, fpLe_inf_inf a b⟩
  case mixed =>
    exact ⟨rfl, rfl, rfl, rfl, fun hm => ⟨fmul_inf_fin a b hm, fmul_fin_inf a b hm⟩, rfl, rfl, rfl, rfl,
      fun hm => fdiv_fin_zero a b hm, rfl, rfl, rfl⟩

end

section
/-! Encoding and decoding (30_encoding.md R80 to R87): a well-formed request is read back from its bytes, and from
no fewer of them. -/

namespace Sys2Proof

/-- The format by which the operands of the opcode byte `op` are read (R81, R84, R85). -/
inductive OperandFormat (op : Byte) : Prop
  | rq8 (mk : Byte → Instr) (h : ∀ q, decodeOperands op q = decodeRQ8 mk q)
  | rq16 (mk : Word16 → Instr) (h : ∀ q, decodeOperands op q = decodeRQ16 mk q)
  | rq32 (mk : Word32 → Instr) (h : ∀ q, decodeOperands op q = decodeRQ32 mk q)
  | rq5x32 (mk : Word32 → Word32 → Word32 → Word32 → Word32 → Instr) (h : ∀ q, decodeOperands op q = decodeRQ5X32 mk q)
  | rqv (mk : List Byte → Instr) (h : ∀ q, decodeOperands op q = decodeRQV mk q)
  | bare (mk : Instr) (h : ∀ q, decodeOperands op q = .ok (mk, q))

theorem decodeOperands_unassigned {op : Byte} (h : op ∉ assignedOpcodes) (q : List Byte) :
    decodeOperands op q = .ok (.unassigned op, q) := by
  simp only [assignedOpcodes, List.mem_cons, List.not_mem_nil, or_false, not_or] at h
  simp only [decodeOperands, h, if_false]

/-- Every opcode byte has one format. -/
theorem operandFormat (op : Byte) : OperandFormat op := by
  by_cases h : op ∈ assignedOpcodes
  · simp only [assignedOpcodes, List.mem_cons, List.not_mem_nil, or_false] at h
    obtain rfl | rfl | rfl | rfl | rfl | rfl | rfl | rfl | rfl | rfl | rfl | rfl | rfl | rfl | rfl | rfl := h
    · exact .rq8 .setAddress fun _ => rfl
    · exact .rq8 .driveM1 fun _ => rfl
    · exact .rq8 .driveM2 fun _ => rfl
    · exact .rq8 .driveMixed fun _ => rfl
    · exact .rq8 .turnMixed fun _ => rfl
    · exact .rq8 .setMinVoltage fun _ => rfl
    · exact .rq8 .setMaxVoltage fun _ => rfl
    · exact .rq16 .setSerialTimeout fun _ => rfl
    · exact .rq32 .setBaudRate fun _ => rfl
    · exact .rq8 .setRamping fun _ => rfl
    · exact .rq8 .setDeadband fun _ => rfl
    · exact .rqv .checksum fun _ => rfl
    · exact .rq5x32 .mapRangeI fun _ => rfl
    · exact .rq5x32 .mapRangeF fun _ => rfl
    · exact .rq32 .ratioToValue fun _ => rfl
    · exact .rq32 .valueToRatio fun _ => rfl
  · exact .bare (.unassigned op) (decodeOperands_unassigned h)

/-- Bytes that hold a whole request hold the same one whatever bytes follow. -/
theorem decode_append {q left : List Byte} {i : Instr} (more : List Byte) (h : decode q = .ok (i, left)) :
    decode (q ++ more) = .ok (i, left ++ more) := by
  cases q with
  | nil => cases h
  | cons op q =>
    replace h : decodeOperands op q = .ok (i, left) := h
    show decodeOperands op (q ++ more) = _
    cases operandFormat op with
    | rq8 mk hop =>
      rw [hop] at h ⊢
      obtain ⟨a, rfl, rfl⟩ := decodeRQ8_cases h
      exact decodeRQ8_cons mk a _
    | rq16 mk hop =>
      rw [hop] at h ⊢
      obtain ⟨a, rfl, rfl⟩ := decodeRQ16_cases h
      rw [List.append_assoc, decodeRQ16_bytes]
    | rq32 mk hop =>
      rw [hop] at h ⊢
      obtain ⟨a, rfl, rfl⟩ := decodeRQ32_cases h
      rw [List.append_assoc, decodeRQ32_bytes]
    | rq5x32 mk hop =>
      rw [hop] at h ⊢
      obtain ⟨a, b, c, d, e, rfl, rfl⟩ := decodeRQ5X32_cases h
      rw [List.append_assoc, decodeRQ5X32_bytes]
    | rqv mk hop =>
      rw [hop] at h ⊢
      obtain ⟨n, data, rfl, hn, rfl⟩ := decodeRQV_cases h
      rw [List.append_assoc, decodeRQV_bytes mk n data _ hn]
    | bare mk hop =>
      rw [hop] at h ⊢
      cases h
      rfl

/-- The decoder reads a well-formed request back from its bytes and leaves what follows. -/
theorem decode_encode {i : Instr} (rest : List Byte) (hwf : i.wellFormed = true) :
    decode (encode i ++ rest) = .ok (i, rest) := by
  cases i with
  | setSerialTimeout a => exact decodeRQ16_bytes .setSerialTimeout a rest
  | setBaudRate a => exact decodeRQ32_bytes .setBaudRate a rest
  | checksum data =>
    have hlen : data.length ≤ 65535 := of_decide_eq_true hwf
    have hcount : data.length = (BitVec.ofNat 16 data.length).toNat := by
      rw [BitVec.toNat_ofNat]
      omega
    exact decodeRQV_bytes .checksum _ data rest hcount
  | mapRangeI fl fh tl th v => exact decodeRQ5X32_bytes .mapRangeI fl fh tl th v rest
  | mapRangeF fl fh tl th v => exact decodeRQ5X32_bytes .mapRangeF fl fh tl th v rest
  | ratioToValue a => exact decodeRQ32_bytes .ratioToValue a rest
  | valueToRatio a => exact decodeRQ32_bytes .valueToRatio a rest
  | unassigned op => exact decodeOperands_unassigned (op := op) (of_decide_eq_true hwf) rest
  | _ => rfl

theorem decode_encode_self {i : Instr} (hwf : i.wellFormed = true) : decode (encode i) = .ok (i, []) := by
  simpa only [List.append_nil] using decode_encode [] hwf

/-- The first bytes of a request, short of all, hold no whole request: the others would be left over of it (R36). -/
theorem decode_part_error {i : Instr} {q more : List Byte} (hwf : i.wellFormed = true) (hq : q ++ more = encode i)
    (hmore : more ≠ []) : ∃ e, decode q = .error e := by
  cases h : decode q with
  | error e => exact ⟨e, rfl⟩
  | ok p =>
    have hwhole := decode_append more h
    rw [hq, decode_encode_self hwf] at hwhole
    have hnothing : [] = p.2 ++ more := congrArg Prod.snd (Except.ok.inj hwhole)
    exact absurd (List.append_eq_nil_iff.mp hnothing.symm).2 hmore

end Sys2Proof
end

section
/-! The claims about encodings that the reception of a request rests on (10_state.md R36, 30_encoding.md R84). -/

open Sys2Proof Sys2Proof.Machine

/-- Settles O4, by `decode_part_error` for the bytes taken and those dropped. -/
theorem requestsArePrefixFree : Obligations.RequestsArePrefixFree := by
  intro i k hwf hk
  exact decode_part_error hwf (List.take_append_drop k (encode i)) (by simpa using hk)

end

section
/-! What one step can do, port by port (10_state.md R36 to R41): each move with the state it leaves, and what the shared
operations leave unchanged. -/

namespace Sys2Proof.Machine

/-! ### The transport has given an answer -/

/-- The state in which the transport has given the answer `a` to the frame `f`, and its other answers are `rest`. -/
def withWriteAnswer (f : Frame) (a : WriteAnswer) (rest : List WriteAnswer) (s : State) : State :=
  { s with writeAnswers := rest, line := s.line ++ lineBytes f a }

/-- The state in which the transport has given the answer `a` to the rate `r`, and its other answers are `rest`. -/
def withBaudAnswer (r : Word32) (a : BaudAnswer) (rest : List BaudAnswer) (s : State) : State :=
  { s with baudAnswers := rest, lineRate := rateAfter r s.lineRate a }

/-! ### Reset leaves the ports' histories and what the host presents -/

/-- Whatever the operation in flight still does, it does to the transport alone (R271). -/
theorem abandonTransport_eq (s : State) : ∃ writes bauds line rate,
    abandonTransport s =
      { s with writeAnswers := writes, baudAnswers := bauds, line := line, lineRate := rate } := by
  unfold abandonTransport
  split
  · split <;> exact ⟨_, _, _, _, rfl⟩
  · split <;> exact ⟨_, _, _, _, rfl⟩
  all_goals exact ⟨_, _, _, _, rfl⟩

theorem abandonTransport_write_nil {s : State} {op : Byte} {f : Frame} (hp : s.phase = .waitWrite op f)
    (hw : s.writeAnswers = []) : abandonTransport s = s := by simp only [abandonTransport, hp, hw]

theorem abandonTransport_write_cons {s : State} {op : Byte} {f : Frame} {a : WriteAnswer} {rest : List WriteAnswer}
    (hp : s.phase = .waitWrite op f) (hw : s.writeAnswers = a :: rest) :
    abandonTransport s = withWriteAnswer f a rest s := by simp only [abandonTransport, hp, hw, withWriteAnswer]

theorem abandonTransport_baud_nil {s : State} {r : Word32} (hp : s.phase = .waitBaud r) (hw : s.baudAnswers = []) :
    abandonTransport s = s := by simp only [abandonTransport, hp, hw]

theorem abandonTransport_baud_cons {s : State} {r : Word32} {a : BaudAnswer} {rest : List BaudAnswer}
    (hp : s.phase = .waitBaud r) (hw : s.baudAnswers = a :: rest) :
    abandonTransport s = withBaudAnswer r a rest s := by simp only [abandonTransport, hp, hw, withBaudAnswer]

@[simp] theorem takeReset_addr (s : State) : (takeReset s).addr = Config.defaultAddress := rfl
@[simp] theorem takeReset_phase (s : State) : (takeReset s).phase = .idle := rfl

@[simp] theorem takeReset_reqPort (s : State) : (takeReset s).reqPort = s.reqPort := by
  obtain ⟨_, _, _, _, h⟩ := abandonTransport_eq s
  rw [takeReset, h]

@[simp] theorem takeReset_hostReady (s : State) : (takeReset s).hostReady = s.hostReady := by
  obtain ⟨_, _, _, _, h⟩ := abandonTransport_eq s
  rw [takeReset, h]

@[simp] theorem takeReset_taken (s : State) : (takeReset s).taken = s.taken := by
  obtain ⟨_, _, _, _, h⟩ := abandonTransport_eq s
  rw [takeReset, h]

@[simp] theorem takeReset_offered (s : State) : (takeReset s).offered = s.offered := by
  obtain ⟨_, _, _, _, h⟩ := abandonTransport_eq s
  rw [takeReset, h]

/-- An answer leaves the transport at the rate it was offered or at the old one (U10). -/
theorem rateAfter_cases (r old : Word32) (a : BaudAnswer) : rateAfter r old a = old ∨ rateAfter r old a = r := by
  cases a with
  | ok => exact .inr rfl
  | err sub changed =>
    cases changed with
    | false => exact .inl rfl
    | true => exact .inr rfl

/-- Only a rate in flight at reset can still become the transport's rate (R44, R271). -/
theorem takeReset_lineRate (s : State) :
    (takeReset s).lineRate = s.lineRate ∨ s.phase = .waitBaud (takeReset s).lineRate := by
  cases hp : s.phase with
  | waitBaud r =>
    cases hw : s.baudAnswers with
    | nil => rw [takeReset, abandonTransport_baud_nil hp hw]; exact .inl rfl
    | cons a rest =>
      rw [takeReset, abandonTransport_baud_cons hp hw]
      exact (rateAfter_cases r s.lineRate a).imp_right fun h => congrArg Phase.waitBaud h.symm
  | waitWrite op f =>
    cases hw : s.writeAnswers with
    | nil => rw [takeReset, abandonTransport_write_nil hp hw]; exact .inl rfl
    | cons a rest => rw [takeReset, abandonTransport_write_cons hp hw]; exact .inl rfl
  | idle => exact .inl (by simp only [takeReset, abandonTransport, hp])
  | receiving op bytes => exact .inl (by simp only [takeReset, abandonTransport, hp])
  | responding rest => exact .inl (by simp only [takeReset, abandonTransport, hp])

/-! ### The transport's answers change the phase, and may offer the rate -/

/-- The block's part of an answer to a frame: an error, the rate the frame names, or success (R170, R176). -/
theorem afterWrite_cases (op : Byte) (f : Frame) (a : WriteAnswer) (s : State) :
    (∃ sub, afterWrite op f a s = raiseTransportError sub s) ∨ afterWrite op f a s = respondOk [] s ∨
    ∃ r, a = .ok ∧ pendingRate op f = some r ∧ afterWrite op f a s = offerBaud r s := by
  cases a with
  | err sub n => exact .inl ⟨sub, rfl⟩
  | ok =>
    cases h : pendingRate op f with
    | none => exact .inr (.inl (afterWrite_ok_none s h))
    | some r => exact .inr (.inr ⟨r, rfl, rfl, afterWrite_ok_some s h⟩)

/-- The block's part of an answer to a rate: an error or success (R176). -/
theorem afterBaud_cases (a : BaudAnswer) (s : State) :
    (∃ sub, afterBaud a s = raiseTransportError sub s) ∨ afterBaud a s = respondOk [] s := by
  cases a with
  | err sub changed => exact .inl ⟨sub, rfl⟩
  | ok => exact .inr rfl

theorem afterWrite_eq (op : Byte) (f : Frame) (a : WriteAnswer) (s : State) :
    ∃ p ops, afterWrite op f a s = { s with phase := p, offered := ops } := by
  obtain ⟨sub, h⟩ | h | ⟨r, -, -, h⟩ := afterWrite_cases op f a s <;> exact ⟨_, _, h⟩

theorem afterBaud_eq (a : BaudAnswer) (s : State) : ∃ p, afterBaud a s = { s with phase := p } := by
  obtain ⟨sub, h⟩ | h := afterBaud_cases a s <;> exact ⟨_, h⟩

@[simp] theorem afterWrite_addr (op : Byte) (f : Frame) (a : WriteAnswer) (s : State) :
    (afterWrite op f a s).addr = s.addr := by
  obtain ⟨_, _, h⟩ := afterWrite_eq op f a s
  rw [h]

@[simp] theorem afterWrite_reqPort (op : Byte) (f : Frame) (a : WriteAnswer) (s : State) :
    (afterWrite op f a s).reqPort = s.reqPort := by
  obtain ⟨_, _, h⟩ := afterWrite_eq op f a s
  rw [h]

@[simp] theorem afterWrite_hostReady (op : Byte) (f : Frame) (a : WriteAnswer) (s : State) :
    (afterWrite op f a s).hostReady = s.hostReady := by
  obtain ⟨_, _, h⟩ := afterWrite_eq op f a s
  rw [h]

@[simp] theorem afterWrite_taken (op : Byte) (f : Frame) (a : WriteAnswer) (s : State) :
    (afterWrite op f a s).taken = s.taken := by
  obtain ⟨_, _, h⟩ := afterWrite_eq op f a s
  rw [h]

@[simp] theorem afterWrite_lineRate (op : Byte) (f : Frame) (a : WriteAnswer) (s : State) :
    (afterWrite op f a s).lineRate = s.lineRate := by
  obtain ⟨_, _, h⟩ := afterWrite_eq op f a s
  rw [h]

@[simp] theorem afterBaud_addr (a : BaudAnswer) (s : State) :
    (afterBaud a s).addr = s.addr := by
  obtain ⟨_, h⟩ := afterBaud_eq a s
  rw [h]

@[simp] theorem afterBaud_reqPort (a : BaudAnswer) (s : State) :
    (afterBaud a s).reqPort = s.reqPort := by
  obtain ⟨_, h⟩ := afterBaud_eq a s
  rw [h]

@[simp] theorem afterBaud_hostReady (a : BaudAnswer) (s : State) :
    (afterBaud a s).hostReady = s.hostReady := by
  obtain ⟨_, h⟩ := afterBaud_eq a s
  rw [h]

@[simp] theorem afterBaud_taken (a : BaudAnswer) (s : State) :
    (afterBaud a s).taken = s.taken := by
  obtain ⟨_, h⟩ := afterBaud_eq a s
  rw [h]

@[simp] theorem afterBaud_offered (a : BaudAnswer) (s : State) :
    (afterBaud a s).offered = s.offered := by
  obtain ⟨_, h⟩ := afterBaud_eq a s
  rw [h]

@[simp] theorem afterBaud_lineRate (a : BaudAnswer) (s : State) :
    (afterBaud a s).lineRate = s.lineRate := by
  obtain ⟨_, h⟩ := afterBaud_eq a s
  rw [h]

/-! ### What a request reads of the state -/

/-- What running the request `i` reads: a frame of `ADDR`, a response of the operands alone, or one of the draws too
(R34, R35). The cases hold in every state, where `exec_offersOrAnswers` speaks of one. -/
inductive Meaning (i : Instr) : Prop
  | frame (c d : Byte) (h : ∀ s, exec i s = .next (offerFrame i.opcode c d s))
  | address (a : Byte) (hi : i = .setAddress a) (h : ∀ s, exec i s = .next (answered [0x00, 0x00] a s.nanDraws s))
  | response (response : List Byte) (h : ∀ s, exec i s = .next (answered response s.addr s.nanDraws s))
  | drawn (response : Nat → List Byte) (draws : Nat → Nat) (hi : ∃ fl fh tl th v, i = .mapRangeF fl fh tl th v)
      (h : ∀ s, exec i s = .next (answered (response s.nanDraws) s.addr (draws s.nanDraws) s))

theorem fpRound_ne_nan (neg : Bool) (num den : Nat) : fpRound neg num den ≠ .nan := by
  unfold fpRound
  simp only
  split <;> exact nofun

/-- The ratio of a value is no NaN: a finite value is divided by 2047.0, which is finite and not zero (R135). -/
theorem valueRatio_ne_nan (v : Int) : valueRatio v ≠ .nan := by
  have hscale : fpRatioScale = .fin false (2047 * 2 ^ 149) := fpOfInt_2047
  have hv : fpOfInt v ≠ .nan := fpRound_ne_nan _ _ _
  rw [valueRatio, hscale]
  cases hf : fpOfInt v with
  | nan => exact absurd hf hv
  | inf a => exact nofun
  | fin a m =>
    rw [fdiv_fin a false m (by decide)]
    exact fpRound_ne_nan _ _ _

theorem fpToBits_of_ne_nan {x : Fp} (h : x ≠ .nan) (draw draw' : Bool × Fin 8388607) :
    fpToBits draw x = fpToBits draw' x := by
  cases x with
  | nan => exact absurd rfl h
  | inf neg => rfl
  | fin neg mag => rfl

/-- The result of `MAP_RANGE_F` from its operands' bits (R126). -/
def operandsMapF (fl fh tl th v : Word32) : Fp :=
  mapF (fpOfBits fl) (fpOfBits fh) (fpOfBits tl) (fpOfBits th) (fpOfBits v)

/-- The response of `MAP_RANGE_F` to the result `r` where `draws` draws were taken before (R126, log 5). -/
def drawnResponse (r : Fp) (draws : Nat) : List Byte := 0x00 :: 0x00 :: bytes32 (fpToBits (Config.nanPayload draws) r)

/-- How many draws `MAP_RANGE_F` has taken once its result is `r` (log 5). -/
def drawsAfter (r : Fp) (draws : Nat) : Nat := if r = .nan then draws + 1 else draws

theorem countDraw_eq (r : Fp) (s : State) : countDraw r s = { s with nanDraws := drawsAfter r s.nanDraws } := by
  unfold countDraw drawsAfter
  split <;> rfl

theorem exec_meaning (i : Instr) : Meaning i := by
  cases i with
  | setAddress a => exact .address a rfl fun _ => rfl
  | driveM1 a => exact .frame _ _ fun _ => rfl
  | driveM2 a => exact .frame _ _ fun _ => rfl
  | driveMixed a => exact .frame _ _ fun _ => rfl
  | turnMixed a => exact .frame _ _ fun _ => rfl
  | setMinVoltage a => exact .frame _ _ fun _ => rfl
  | setMaxVoltage a => exact .frame _ _ fun _ => rfl
  | setSerialTimeout a =>
    by_cases h : (timeoutMaxMs : Int) < u16 a
    · exact .response [0x02, 0x00] fun s => by rw [exec, execSetSerialTimeout, if_pos h]; rfl
    · exact .frame _ _ fun s => by rw [exec, execSetSerialTimeout, if_neg h]; rfl
  | setBaudRate a =>
    cases h : baudCode a with
    | none => exact .response [0x02, 0x00] fun s => by rw [exec, execSetBaudRate, h]; rfl
    | some d => exact .frame _ _ fun s => by rw [exec, execSetBaudRate, h]; rfl
  | setRamping a => exact .frame _ _ fun _ => rfl
  | setDeadband a => exact .frame _ _ fun _ => rfl
  | checksum data => exact .response _ fun _ => rfl
  | mapRangeI fl fh tl th v =>
    by_cases h : i32 fh = i32 fl
    · exact .response [0x02, 0x00] fun s => by simp only [exec, execMapRangeI, if_pos h]; rfl
    · by_cases hf : fitsI32 (mapZ (i32 fl) (i32 fh) (i32 tl) (i32 th) (i32 v)) = true
      · exact .response _ fun s => by simp only [exec, execMapRangeI, if_neg h, if_pos hf]; rfl
      · exact .response [0x02, 0x00] fun s => by simp only [exec, execMapRangeI, if_neg h, if_neg hf]; rfl
  | mapRangeF fl fh tl th v =>
    by_cases h : fpIsZero (fsub (fpOfBits fh) (fpOfBits fl)) = true
    · exact .response [0x02, 0x00] fun s => by simp only [exec, execMapRangeF, if_pos h]; rfl
    · refine .drawn (drawnResponse (operandsMapF fl fh tl th v)) (drawsAfter (operandsMapF fl fh tl th v))
        ⟨fl, fh, tl, th, v, rfl⟩ fun s => ?_
      simp only [exec, execMapRangeF, if_neg h, countDraw_eq]
      rfl
  | ratioToValue a =>
    by_cases h : ratioInRange (fpOfBits a) = true
    · exact .response _ fun s => by rw [exec, execRatioToValue, if_pos h]; rfl
    · exact .response [0x02, 0x00] fun s => by rw [exec, execRatioToValue, if_neg h]; rfl
  | valueToRatio a =>
    refine .response (0x00 :: 0x00 :: bytes32 (fpToBits (false, 0) (valueRatio (i32 a)))) fun s => ?_
    rw [exec, execValueToRatio, fpToBits_of_ne_nan (valueRatio_ne_nan _) (currentDraw s) (false, 0)]
    rfl
  | unassigned op => exact .response [0x04, 0x00] fun _ => rfl

/-- `SET_ADDRESS` alone changes `ADDR` (R31). -/
theorem exec_addr {i : Instr} {s t : State} (h : exec i s = .next t) : t.addr = s.addr ∨ i = .setAddress t.addr := by
  cases exec_meaning i with
  | frame c d hi => exact .inl (Host.Outcome.next.inj (h.symm.trans (hi s)) ▸ rfl)
  | address a ha hi => exact .inr (Host.Outcome.next.inj (h.symm.trans (hi s)) ▸ ha)
  | response response hi => exact .inl (Host.Outcome.next.inj (h.symm.trans (hi s)) ▸ rfl)
  | drawn response draws hf hi => exact .inl (Host.Outcome.next.inj (h.symm.trans (hi s)) ▸ rfl)

/-! ### The moves -/

theorem afterTaking_of_ne_nil {rest : List Byte} (h : rest ≠ []) : afterTaking rest = .responding rest := by
  cases rest with
  | nil => exact absurd rfl h
  | cons b rest => rfl

/-- The state in which the host presents only `rest`, the bytes before it accepted. -/
def withRequestBytes (rest : List Byte) (s : State) : State := { s with reqPort := rest }

/-- The block accepts the byte `b` of a request of which it holds `q`, and `rest` is still presented (R38). -/
structure Accepts (s : State) (q : List Byte) (b : Byte) (rest : List Byte) : Prop where
  accepted : acceptedBytes s.phase = some q
  reqPort : s.reqPort = b :: rest

/-- The block accepts bytes only in `Idle` and `Receiving` (R36, R38). -/
theorem Accepts.phase {s : State} {q rest : List Byte} {b : Byte} (h : Accepts s q b rest) :
    s.phase = .idle ∨ ∃ op bytes, s.phase = .receiving op bytes := by
  have haccepted := h.accepted
  cases hp : s.phase with
  | idle => exact .inl rfl
  | receiving op bytes => exact .inr ⟨op, bytes, rfl⟩
  | waitWrite op f => rw [hp] at haccepted; cases haccepted
  | waitBaud r => rw [hp] at haccepted; cases haccepted
  | responding rest => rw [hp] at haccepted; cases haccepted

/-- One step from `s`, by what moves: `step_move` says that there is no other. -/
inductive Move (s : State) : State → Prop
  /-- reset (R270) -/
  | reset (hr : resetAsserted s = true) : Move s (takeReset (clockReset s))
  /-- the block accepts a byte that completes no request (R36) -/
  | receive (q : List Byte) (b : Byte) (rest : List Byte) (e : DecodeError) (hb : Accepts s q b rest)
      (hd : decode (q ++ [b]) = .error e) :
      Move s (keepReceiving (q ++ [b]) (withRequestBytes rest (clockReset s)))
  /-- the block accepts the last byte of a request that offers a frame (R40) -/
  | offer (q : List Byte) (b : Byte) (rest : List Byte) (op c d : Byte) (hb : Accepts s q b rest)
      (hf : admittedFrame op c d) : Move s (offerFrame op c d (withRequestBytes rest (clockReset s)))
  /-- the block accepts the last byte of a request that begins a response (R39) -/
  | answer (q : List Byte) (b : Byte) (rest : List Byte) (i : Instr) (left response : List Byte) (addr : Byte)
      (draws : Nat) (hb : Accepts s q b rest) (hd : decode (q ++ [b]) = .ok (i, left)) (hl : legalResponse response = true)
      (ha : addr = s.addr ∨ i = .setAddress addr) :
      Move s (answered response addr draws (withRequestBytes rest (clockReset s)))
  /-- all wait (R249, R250, R284) -/
  | wait : Move s (clockReset s)
  /-- the transport answers the frame (R40) -/
  | writeAnswered (op : Byte) (f : Frame) (a : WriteAnswer) (rest : List WriteAnswer) (hp : s.phase = .waitWrite op f)
      (hw : s.writeAnswers = a :: rest) : Move s (afterWrite op f a (withWriteAnswer f a rest (clockReset s)))
  /-- the transport answers the rate (R41) -/
  | baudAnswered (r : Word32) (a : BaudAnswer) (rest : List BaudAnswer) (hp : s.phase = .waitBaud r)
      (hw : s.baudAnswers = a :: rest) : Move s (afterBaud a (withBaudAnswer r a rest (clockReset s)))
  /-- no byte of the response is left (in no state a run reaches, log 15) -/
  | ended (hp : s.phase = .responding []) : Move s { clockReset s with phase := .idle }
  /-- the host takes a response byte (R39) -/
  | take (b : Byte) (rest : List Byte) (n : Nat) (hr : resetAsserted s = false) (hp : s.phase = .responding (b :: rest))
      (hn : s.hostReady = n + 1) :
      Move s { clockReset s with phase := afterTaking rest, hostReady := n, taken := s.taken ++ [b] }

/-! ### Where the block accepts no byte -/

theorem otherMove_idle {s : State} (h : s.phase = .idle) : otherMove s = s := by rw [otherMove, h]

theorem otherMove_receiving {s : State} {op : Byte} {bytes : List Byte} (h : s.phase = .receiving op bytes) :
    otherMove s = s := by rw [otherMove, h]

theorem otherMove_waitWrite {s : State} {op : Byte} {f : Frame} (h : s.phase = .waitWrite op f) :
    otherMove s = answerWrite op f s := by rw [otherMove, h]

theorem otherMove_waitBaud {s : State} {r : Word32} (h : s.phase = .waitBaud r) : otherMove s = answerBaud r s := by
  rw [otherMove, h]

theorem otherMove_responding {s : State} {rest : List Byte} (h : s.phase = .responding rest) :
    otherMove s = deliver rest s := by rw [otherMove, h]

theorem otherMove_move {s : State} (hr : resetAsserted s = false) : Move s (otherMove (clockReset s)) := by
  cases hp : s.phase with
  | idle => rw [otherMove_idle (s := clockReset s) hp]; exact .wait
  | receiving op bytes => rw [otherMove_receiving (s := clockReset s) hp]; exact .wait
  | waitWrite op f =>
    rw [otherMove_waitWrite (s := clockReset s) hp]
    cases hw : s.writeAnswers with
    | nil => rw [answerWrite_nil op f (s := clockReset s) hw]; exact .wait
    | cons a rest => rw [answerWrite_cons op f (s := clockReset s) hw]; exact .writeAnswered op f a rest hp hw
  | waitBaud r =>
    rw [otherMove_waitBaud (s := clockReset s) hp]
    cases hw : s.baudAnswers with
    | nil => rw [answerBaud_nil r (s := clockReset s) hw]; exact .wait
    | cons a rest => rw [answerBaud_cons r (s := clockReset s) hw]; exact .baudAnswered r a rest hp hw
  | responding response =>
    rw [otherMove_responding (s := clockReset s) hp]
    cases response with
    | nil => rw [deliver_nil]; exact .ended hp
    | cons b rest =>
      cases hn : s.hostReady with
      | zero => rw [deliver_waits b rest (s := clockReset s) hn]; exact .wait
      | succ n => rw [deliver_takes b rest (s := clockReset s) hn]; exact .take b rest n hr hp hn

/-- Every step is a move. -/
theorem step_move {s t : State} (h : step s = .next t) : Move s t := by
  obtain ⟨hr, rfl⟩ | ⟨-, q, b, rest, e, hp, hq, hd, rfl⟩ | ⟨-, q, b, rest, i, left, hp, hq, hd, hexec⟩ | ⟨hr, -, rfl⟩ :=
    step_cases h
  · exact .reset hr
  · exact .receive q b rest e ⟨hp, hq⟩ hd
  · have haddr := exec_addr hexec
    obtain ⟨op, c, d, hf, ho⟩ | ⟨response, addr, draws, hl, ho⟩ :=
      exec_offersOrAnswers i { clockReset s with reqPort := rest }
    · obtain rfl := Host.Outcome.next.inj (hexec.symm.trans ho)
      exact .offer q b rest op c d ⟨hp, hq⟩ hf
    · obtain rfl := Host.Outcome.next.inj (hexec.symm.trans ho)
      exact .answer q b rest i left response addr draws ⟨hp, hq⟩ hd hl haddr
  · exact otherMove_move hr

end Sys2Proof.Machine
end

section
/-! Runs: receiving a request byte by byte, and delivering a response byte by byte (10_state.md R36, R38, R39). -/

namespace Sys2Proof.Machine

/-- A step in which the block accepts a byte. -/
theorem step_accepts {s : State} {q : List Byte} {b : Byte} {rest : List Byte} (hr : resetAsserted s = false)
    (hb : Accepts s q b rest) : step s = runRequest (q ++ [b]) (withRequestBytes rest (clockReset s)) := by
  obtain ⟨hphase, hport⟩ := hb
  rw [step_running hr, stepRunning_some (acceptByte_some (s := clockReset s) hphase hport)]
  rfl

/-- While bytes of a request are still to come the block receives them; with the last it runs the request. -/
theorem runSteps_receive {i : Instr} (rest : List Byte) (hwf : i.wellFormed = true) {bs q : List Byte} {s : State}
    (hbs : bs ≠ []) (hq : q ++ bs = encode i) (hp : s.phase = receivingPhase q) (hr : s.resetLine = [])
    (hport : s.reqPort = bs ++ rest) : runSteps bs.length s = exec i (withRequestBytes rest s) := by
  induction bs generalizing q s with
  | nil => exact absurd rfl hbs
  | cons b bs ih =>
    have hsplit : (q ++ [b]) ++ bs = encode i := by rw [← hq, List.append_assoc]; rfl
    have hphase : acceptedBytes s.phase = some q := by rw [hp, acceptedBytes_receivingPhase]
    rw [List.cons_append] at hport
    have hstep : step s = runRequest (q ++ [b]) (withRequestBytes (bs ++ rest) s) := by
      rw [step_accepts (resetAsserted_of_nil hr) ⟨hphase, hport⟩, clockReset_of_nil hr]
    by_cases hlast : bs = []
    · subst hlast
      rw [List.append_nil] at hsplit
      rw [List.length_singleton, runSteps_one, hstep, hsplit, runRequest_complete _ (decode_encode_self hwf)]
      rfl
    · obtain ⟨e, he⟩ := decode_part_error hwf hsplit hlast
      rw [runRequest_partial _ he] at hstep
      have hrest := ih (s := keepReceiving (q ++ [b]) (withRequestBytes (bs ++ rest) s)) hlast hsplit rfl hr rfl
      rw [List.length_cons, runSteps_succ _ hstep, hrest]
      exact exec_withPhase i (withRequestBytes rest s) (receivingPhase (q ++ [b]))

/-- A request presented to an idle block runs in the step that accepts its last byte. -/
theorem runSteps_encode {i : Instr} {s : State} {rest : List Byte} (hwf : i.wellFormed = true) (hp : s.phase = .idle)
    (hr : s.resetLine = []) (hport : s.reqPort = encode i ++ rest) :
    runSteps (encode i).length s = exec i (withRequestBytes rest s) :=
  runSteps_receive rest hwf (q := []) (encode_ne_nil i) rfl hp hr hport

/-- A host that stands ready takes a response byte by byte, and the block is then `Idle` (R39, R240). -/
theorem reaches_delivered {response : List Byte} {n : Nat} {s : State} (hne : response ≠ [])
    (hp : s.phase = .responding response) (hr : s.resetLine = []) (hn : s.hostReady = n + response.length) :
    reaches response.length s { s with phase := .idle, hostReady := n, taken := s.taken ++ response } := by
  induction response generalizing s with
  | nil => exact absurd rfl hne
  | cons b rest ih =>
    have hstep : step s = .next
        { s with phase := afterTaking rest, hostReady := n + rest.length, taken := s.taken ++ [b] } := by
      rw [step_responding (resetAsserted_of_nil hr) hp, clockReset_of_nil hr,
        deliver_takes b rest (n := n + rest.length) hn]
    rw [reaches, List.length_cons, runSteps_succ _ hstep]
    cases rest with
    | nil => rfl
    | cons c rest =>
      have hrest := ih (s := { s with
        phase := .responding (c :: rest), hostReady := n + (c :: rest).length, taken := s.taken ++ [b] })
        (List.cons_ne_nil c rest) rfl hr rfl
      rwa [List.append_assoc] at hrest

end Sys2Proof.Machine
end

section
/-! Every move keeps the machine legal (10_state.md R36, R40, R41; 30_encoding.md R96, R100 to R103). -/

namespace Sys2Proof.Machine

/-- The frame of an admitted code and data is legal, whatever `ADDR` is (R101 to R103). -/
theorem legalFrame_of_admitted {op c d : Byte} (addr : Byte) (h : admittedFrame op c d) :
    legalFrame (frame addr c d) = true := by
  obtain ⟨hcode, hdata, -⟩ := h
  have hmem : (emitters.map Prod.snd).contains c = true :=
    List.contains_iff_mem.mpr (List.mem_map.mpr ⟨(op, c), hcode, rfl⟩)
  have hb3 := frame_b3_toNat addr c d
  have hb1 : (frame addr c d).b1 = c := rfl
  have hb2 : (frame addr c d).b2 = d := rfl
  have hb0 : (frame addr c d).b0 = addr := rfl
  simp only [legalFrame, hb0, hb1, hb2, hb3, hmem, decide_true, Bool.and_true, Bool.true_and, Bool.or_eq_true,
    beq_iff_eq, decide_eq_true_eq, or_assoc]
  exact hdata

/-- A rate named by the frame in flight is one the block may offer (R41, R176). -/
theorem pendingRate_offered {op : Byte} {f : Frame} {r : Word32} (h : pendingRate op f = some r) :
    offeredRates.contains r = true := by
  unfold pendingRate at h
  split at h
  · obtain ⟨-, rfl⟩ | ⟨-, rfl⟩ | ⟨-, rfl⟩ | ⟨-, rfl⟩ | ⟨-, rfl⟩ := baudRateOfCode_cases h <;> decide
  · cases h

theorem ne_nil_of_legalResponse {response : List Byte} (h : legalResponse response = true) : response ≠ [] := by
  rintro rfl
  cases h

/-- A whole legal response may be left to deliver. -/
theorem pendingResponse_of_legal {response : List Byte} (h : legalResponse response = true) : pendingResponse response :=
  ⟨ne_nil_of_legalResponse h, [], h⟩

theorem legalHistory_append {s t : State} {o : TxOp} (h : legalHistory s) (hoff : t.offered = s.offered ++ [o])
    (ho : legalTxOp o = true) : legalHistory t := by
  intro o' hmem
  rw [hoff, List.mem_append, List.mem_singleton] at hmem
  obtain hold | rfl := hmem
  · exact h o' hold
  · exact ho

theorem legal_idle {s : State} (h : legalHistory s) (hp : s.phase = .idle) : Legal s := by
  refine ⟨?_, h⟩
  rw [legalPhase, hp]
  trivial

theorem legal_responding {s : State} {rest : List Byte} (h : legalHistory s) (hp : s.phase = .responding rest)
    (hrest : pendingResponse rest) : Legal s := by
  refine ⟨?_, h⟩
  rw [legalPhase, hp]
  exact hrest

/-- A response in the course of which the host has taken another byte (R39). -/
theorem legal_afterTaking {s : State} {b : Byte} {rest : List Byte} (h : legalHistory s)
    (hp : s.phase = afterTaking rest) (hrest : pendingResponse (b :: rest)) : Legal s := by
  cases rest with
  | nil => exact legal_idle h hp
  | cons c rest =>
    obtain ⟨-, sent, hsent⟩ := hrest
    refine legal_responding h hp ⟨List.cons_ne_nil c rest, sent ++ [b], ?_⟩
    rwa [List.append_assoc]

theorem legal_offerFrame {s : State} {op c d : Byte} (h : legalHistory s) (hf : admittedFrame op c d) :
    Legal (offerFrame op c d s) := by
  have hlegal := legalFrame_of_admitted s.addr hf
  obtain ⟨hcode, -, hrate⟩ := hf
  exact ⟨⟨rfl, hlegal, hcode, hrate, List.getLast?_concat⟩, legalHistory_append h rfl hlegal⟩

theorem legal_offerBaud {s : State} {r : Word32} (h : legalHistory s) (hr : offeredRates.contains r = true) :
    Legal (offerBaud r s) :=
  ⟨⟨hr, List.getLast?_concat⟩, legalHistory_append h rfl hr⟩

/-- The bytes of a request that is not whole are held in `Receiving` (R36). -/
theorem legal_keepReceiving {s : State} {q : List Byte} {b : Byte} {e : DecodeError} (h : legalHistory s)
    (hd : decode (q ++ [b]) = .error e) : Legal (keepReceiving (q ++ [b]) s) := by
  refine ⟨?_, h⟩
  cases q with
  | nil => exact hd.trans (congrArg _ (decode_cons_error hd))
  | cons op q => exact hd.trans (congrArg _ (decode_cons_error hd))

theorem legal_raiseTransportError {s : State} (sub : Byte) (h : legalHistory s) : Legal (raiseTransportError sub s) :=
  legal_responding (rest := [0x01, sub]) h rfl (pendingResponse_of_legal rfl)

theorem legal_respondOk_nil {s : State} (h : legalHistory s) : Legal (respondOk [] s) :=
  legal_responding (rest := [0x00, 0x00]) h rfl (pendingResponse_of_legal rfl)

theorem move_legal {s t : State} (h : Legal s) (hm : Move s t) : Legal t := by
  obtain ⟨hphase, hhist⟩ := h
  cases hm with
  | reset hr =>
    refine legal_idle ?_ (takeReset_phase _)
    rwa [legalHistory, takeReset_offered]
  | receive q b rest e hb hd => exact legal_keepReceiving hhist hd
  | offer q b rest op c d hb hf => exact legal_offerFrame hhist hf
  | answer q b rest i left response addr draws hb hd hl ha =>
    exact legal_responding hhist rfl (pendingResponse_of_legal hl)
  | wait => exact ⟨hphase, hhist⟩
  | writeAnswered op f a rest hp hw =>
    obtain ⟨sub, h⟩ | h | ⟨r, -, hr, h⟩ := afterWrite_cases op f a (withWriteAnswer f a rest (clockReset s)) <;> rw [h]
    · exact legal_raiseTransportError sub hhist
    · exact legal_respondOk_nil hhist
    · exact legal_offerBaud hhist (pendingRate_offered hr)
  | baudAnswered r a rest hp hw =>
    obtain ⟨sub, h⟩ | h := afterBaud_cases a (withBaudAnswer r a rest (clockReset s)) <;> rw [h]
    · exact legal_raiseTransportError sub hhist
    · exact legal_respondOk_nil hhist
  | ended hp => exact legal_idle hhist rfl
  | take b rest n hr hp hn =>
    rw [legalPhase, hp] at hphase
    exact legal_afterTaking hhist rfl hphase

end Sys2Proof.Machine
end

section
/-! The claims that a received request runs, and that every step keeps the machine legal (10_state.md R36). -/

open Sys2Proof Sys2Proof.Machine

/-- Settles O11: `runSteps_receive` from the state in which no byte of the request is accepted. -/
theorem requestRunsWhenReceived : Obligations.RequestRunsWhenReceived :=
  fun _ _ _ hwf hp hr hport => runSteps_encode hwf hp hr hport

/-- Settles O44: every step is a move, and each move keeps the machine legal. -/
theorem stepKeepsLegal : Obligations.StepKeepsLegal :=
  fun _ _ hlegal hstep => move_legal hlegal (step_move hstep)

end

section
/-! Two machines that differ in `ADDR` and in what shows it at the transport go on alike (10_state.md R31). -/

namespace Sys2Proof.Machine

/-- Two phases alike but for bytes 0 and 3 of a frame in flight, the address and the checksum over it. -/
inductive PhasesAlike : Phase → Phase → Prop
  | same (p : Phase) : PhasesAlike p p
  | waitWrite (op : Byte) {f g : Frame} (hcode : f.b1 = g.b1) (hdata : f.b2 = g.b2) :
    PhasesAlike (.waitWrite op f) (.waitWrite op g)

/-- `alikeButAddr`, field by field (`seenAlike_iff`). -/
structure SeenAlike (s t : State) : Prop where
  reqPort : s.reqPort = t.reqPort
  hostReady : s.hostReady = t.hostReady
  taken : s.taken = t.taken
  writeAnswers : s.writeAnswers = t.writeAnswers
  baudAnswers : s.baudAnswers = t.baudAnswers
  lineRate : s.lineRate = t.lineRate
  resetLine : s.resetLine = t.resetLine
  nanDraws : s.nanDraws = t.nanDraws
  phase : PhasesAlike s.phase t.phase

theorem seenAlike_iff (s t : State) : SeenAlike s t ↔ alikeButAddr s t := by
  constructor
  · rintro ⟨hport, hready, htaken, hwrites, hbauds, hrate, hreset, hdraws, hphase⟩
    refine ⟨hport, hready, htaken, hwrites, hbauds, hrate, hreset, hdraws, ?_⟩
    generalize s.phase = p, t.phase = q at hphase
    cases hphase with
    | same p => cases p <;> simp
    | waitWrite op hcode hdata => exact ⟨rfl, hcode, hdata⟩
  · rintro ⟨hport, hready, htaken, hwrites, hbauds, hrate, hreset, hdraws, hphase⟩
    refine ⟨hport, hready, htaken, hwrites, hbauds, hrate, hreset, hdraws, ?_⟩
    split at hphase
    next op f op' g hs ht =>
      obtain ⟨rfl, hcode, hdata⟩ := hphase
      rw [hs, ht]
      exact .waitWrite op hcode hdata
    next =>
      rw [hphase]
      exact .same _

theorem acceptedBytes_alike {p q : Phase} (h : PhasesAlike p q) : acceptedBytes p = acceptedBytes q := by
  cases h <;> rfl

/-- The rate a frame names does not show `ADDR`: it is read from the data byte (R176). -/
theorem pendingRate_congr (op : Byte) {f g : Frame} (h : f.b2 = g.b2) : pendingRate op f = pendingRate op g := by
  rw [pendingRate, pendingRate, h]

section
variable {s t : State}

theorem SeenAlike.accepts (h : SeenAlike s t) {q rest : List Byte} {b : Byte} (hb : Accepts s q b rest) :
    Accepts t q b rest := by
  obtain ⟨hphase, hport⟩ := hb
  exact ⟨acceptedBytes_alike h.phase ▸ hphase, h.reqPort ▸ hport⟩

theorem SeenAlike.withPhase (h : SeenAlike s t) (p : Phase) :
    SeenAlike { s with phase := p } { t with phase := p } := { h with phase := .same p }

theorem SeenAlike.clockReset (h : SeenAlike s t) : SeenAlike (clockReset s) (clockReset t) :=
  { h with resetLine := congrArg List.tail h.resetLine }

theorem SeenAlike.withRequestBytes (h : SeenAlike s t) (rest : List Byte) :
    SeenAlike (withRequestBytes rest s) (withRequestBytes rest t) := { h with reqPort := rfl }

theorem SeenAlike.withWriteAnswer (h : SeenAlike s t) (f g : Frame) (a : WriteAnswer) (rest : List WriteAnswer) :
    SeenAlike (withWriteAnswer f a rest s) (withWriteAnswer g a rest t) := { h with writeAnswers := rfl }

theorem SeenAlike.withBaudAnswer (h : SeenAlike s t) (r : Word32) (a : BaudAnswer) (rest : List BaudAnswer) :
    SeenAlike (withBaudAnswer r a rest s) (withBaudAnswer r a rest t) :=
  { h with baudAnswers := rfl, lineRate := congrArg (fun old => rateAfter r old a) h.lineRate }

theorem SeenAlike.afterWrite (h : SeenAlike s t) (op : Byte) {f g : Frame} (hdata : f.b2 = g.b2) (a : WriteAnswer) :
    SeenAlike (afterWrite op f a s) (afterWrite op g a t) := by
  cases a with
  | err sub n => exact h.withPhase _
  | ok =>
    have hrate := pendingRate_congr op hdata
    cases hf : pendingRate op f with
    | none =>
      rw [afterWrite_ok_none s hf, afterWrite_ok_none t (hrate ▸ hf)]
      exact h.withPhase _
    | some r =>
      rw [afterWrite_ok_some s hf, afterWrite_ok_some t (hrate ▸ hf)]
      exact { h with phase := .same _ }

theorem SeenAlike.answerWrite (h : SeenAlike s t) (op : Byte) {f g : Frame} (hdata : f.b2 = g.b2) :
    SeenAlike (answerWrite op f s) (answerWrite op g t) := by
  cases hw : s.writeAnswers with
  | nil => rwa [answerWrite_nil op f hw, answerWrite_nil op g (h.writeAnswers ▸ hw)]
  | cons a rest =>
    rw [answerWrite_cons op f hw, answerWrite_cons op g (h.writeAnswers ▸ hw)]
    exact (h.withWriteAnswer f g a rest).afterWrite op hdata a

theorem SeenAlike.answerBaud (h : SeenAlike s t) (r : Word32) : SeenAlike (answerBaud r s) (answerBaud r t) := by
  cases hw : s.baudAnswers with
  | nil => rwa [answerBaud_nil r hw, answerBaud_nil r (h.baudAnswers ▸ hw)]
  | cons a rest =>
    rw [answerBaud_cons r hw, answerBaud_cons r (h.baudAnswers ▸ hw)]
    cases a <;> exact (h.withBaudAnswer r _ rest).withPhase _

theorem SeenAlike.deliver (h : SeenAlike s t) (response : List Byte) :
    SeenAlike (deliver response s) (deliver response t) := by
  cases response with
  | nil =>
    rw [deliver_nil, deliver_nil]
    exact h.withPhase _
  | cons b rest =>
    cases hn : s.hostReady with
    | zero => rwa [deliver_waits b rest hn, deliver_waits b rest (h.hostReady ▸ hn)]
    | succ n =>
      rw [deliver_takes b rest hn, deliver_takes b rest (h.hostReady ▸ hn)]
      exact { h with hostReady := rfl, taken := congrArg (· ++ [b]) h.taken, phase := .same _ }

theorem SeenAlike.otherMove (h : SeenAlike s t) : SeenAlike (otherMove s) (otherMove t) := by
  have hphase := h.phase
  generalize hs : s.phase = p, ht : t.phase = q at hphase
  cases hphase with
  | waitWrite op hcode hdata =>
    rw [otherMove_waitWrite hs, otherMove_waitWrite ht]
    exact h.answerWrite op hdata
  | same p =>
    cases p with
    | idle => rwa [otherMove_idle hs, otherMove_idle ht]
    | receiving op bytes => rwa [otherMove_receiving hs, otherMove_receiving ht]
    | waitWrite op f =>
      rw [otherMove_waitWrite hs, otherMove_waitWrite ht]
      exact h.answerWrite op rfl
    | waitBaud r =>
      rw [otherMove_waitBaud hs, otherMove_waitBaud ht]
      exact h.answerBaud r
    | responding rest =>
      rw [otherMove_responding hs, otherMove_responding ht]
      exact h.deliver rest

/-- A write in flight at reset: what its answer says reaches the line, and the answer is gone (R271). -/
theorem SeenAlike.abandonWrite (h : SeenAlike s t) {op op' : Byte} {f g : Frame} (hs : s.phase = .waitWrite op f)
    (ht : t.phase = .waitWrite op' g) : SeenAlike (abandonTransport s) (abandonTransport t) := by
  cases hw : s.writeAnswers with
  | nil => rwa [abandonTransport_write_nil hs hw, abandonTransport_write_nil ht (h.writeAnswers ▸ hw)]
  | cons a rest =>
    rw [abandonTransport_write_cons hs hw, abandonTransport_write_cons ht (h.writeAnswers ▸ hw)]
    exact h.withWriteAnswer f g a rest

theorem SeenAlike.abandonTransport (h : SeenAlike s t) : SeenAlike (abandonTransport s) (abandonTransport t) := by
  have hphase := h.phase
  generalize hs : s.phase = p, ht : t.phase = q at hphase
  cases hphase with
  | waitWrite op hcode hdata => exact h.abandonWrite hs ht
  | same p =>
    cases p with
    | waitWrite op f => exact h.abandonWrite hs ht
    | waitBaud r =>
      cases hw : s.baudAnswers with
      | nil => rwa [abandonTransport_baud_nil hs hw, abandonTransport_baud_nil ht (h.baudAnswers ▸ hw)]
      | cons a rest =>
        rw [abandonTransport_baud_cons hs hw, abandonTransport_baud_cons ht (h.baudAnswers ▸ hw)]
        exact h.withBaudAnswer r a rest
    | idle => simpa only [Machine.abandonTransport, hs, ht] using h
    | receiving op bytes => simpa only [Machine.abandonTransport, hs, ht] using h
    | responding rest => simpa only [Machine.abandonTransport, hs, ht] using h

theorem SeenAlike.takeReset (h : SeenAlike s t) : SeenAlike (takeReset s) (takeReset t) :=
  { h.abandonTransport with phase := .same _ }

/-- Both machines go on, to states alike. -/
def OutcomesAlike (o o' : Host.Outcome State Fault Refusal) : Prop :=
  ∃ s t, o = .next s ∧ o' = .next t ∧ SeenAlike s t

/-- `ADDR` goes only into bytes 0 and 3 of a frame; a response and the draws do not read it. -/
theorem SeenAlike.exec (h : SeenAlike s t) (i : Instr) : OutcomesAlike (exec i s) (exec i t) := by
  cases exec_meaning i with
  | frame c d hi => exact ⟨_, _, hi s, hi t, { h with phase := .waitWrite _ rfl rfl }⟩
  | address a ha hi => exact ⟨_, _, hi s, hi t, { h with phase := .same _ }⟩
  | response response hi => exact ⟨_, _, hi s, hi t, { h with phase := .same _ }⟩
  | drawn response draws hf hi =>
    rw [hi s, hi t, h.nanDraws]
    exact ⟨_, _, rfl, rfl, { h with phase := .same _, nanDraws := rfl }⟩

theorem SeenAlike.runRequest (h : SeenAlike s t) (q : List Byte) :
    OutcomesAlike (runRequest q s) (runRequest q t) := by
  cases hd : decode q with
  | error e =>
    rw [runRequest_partial s hd, runRequest_partial t hd]
    exact ⟨_, _, rfl, rfl, h.withPhase _⟩
  | ok p =>
    rw [runRequest_complete s hd, runRequest_complete t hd]
    exact h.exec p.1

theorem SeenAlike.acceptByte_none (h : SeenAlike s t) (ha : acceptByte s = none) : acceptByte t = none := by
  cases ht : acceptByte t with
  | none => rfl
  | some p =>
    obtain ⟨q, b, rest, hphase, hport, -⟩ := acceptByte_cases ht
    rw [← acceptedBytes_alike h.phase] at hphase
    rw [acceptByte_some hphase (h.reqPort.trans hport)] at ha
    cases ha

theorem SeenAlike.step (h : SeenAlike s t) : OutcomesAlike (step s) (step t) := by
  have hreset : resetAsserted s = resetAsserted t := congrArg (List.headD · false) h.resetLine
  cases hr : resetAsserted s with
  | true =>
    rw [step_reset hr, step_reset (hreset ▸ hr)]
    exact ⟨_, _, rfl, rfl, h.clockReset.takeReset⟩
  | false =>
    cases ha : acceptByte (Machine.clockReset s) with
    | none =>
      rw [step_running hr, step_running (hreset ▸ hr), stepRunning_none ha,
        stepRunning_none (h.clockReset.acceptByte_none ha)]
      exact ⟨_, _, rfl, rfl, h.clockReset.otherMove⟩
    | some p =>
      obtain ⟨q, b, rest, hphase, hport, -⟩ := acceptByte_cases ha
      have hb : Accepts s q b rest := ⟨hphase, hport⟩
      rw [step_accepts hr hb, step_accepts (hreset ▸ hr) (h.accepts hb)]
      exact (h.clockReset.withRequestBytes rest).runRequest (q ++ [b])

theorem SeenAlike.runSteps (h : SeenAlike s t) (n : Nat) : OutcomesAlike (runSteps n s) (runSteps n t) := by
  induction n generalizing s t with
  | zero => exact ⟨s, t, rfl, rfl, h⟩
  | succ n ih =>
    obtain ⟨s', t', hs, ht, h'⟩ := h.step
    rw [runSteps_succ n hs, runSteps_succ n ht]
    exact ih h'

end

end Sys2Proof.Machine
end

section
/-! The claim that the host cannot read `ADDR` (10_state.md R31). -/

open Sys2Proof Sys2Proof.Machine

/-- Settles O50, by induction over the run: every step keeps the two machines alike. -/
theorem hostCannotReadAddress : Obligations.HostCannotReadAddress := by
  intro n s t s' t' halike hs ht
  obtain ⟨u, v, hu, hv, h⟩ := ((seenAlike_iff s t).mpr halike).runSteps n
  obtain rfl := Host.Outcome.next.inj (hu.symm.trans hs)
  obtain rfl := Host.Outcome.next.inj (hv.symm.trans ht)
  exact ⟨(seenAlike_iff u v).mp h, h.taken⟩

end

section
/-! From the request to the response: the frame, the transport's answers, and the delivery (10_state.md R39 to R45). -/

namespace Sys2Proof.Machine

/-- What the host meets at its two ports, and the reset input, are as before. -/
structure SamePorts (s t : State) : Prop where
  reqPort : t.reqPort = s.reqPort
  hostReady : t.hostReady = s.hostReady
  taken : t.taken = s.taken
  resetLine : t.resetLine = s.resetLine

/-- Within `k` steps from `s` the block begins to deliver `response`, and has met the transport alone. -/
def answersWithin (k : Nat) (s : State) (response : List Byte) : Prop :=
  ∃ n t, n ≤ k ∧ reaches n s t ∧ t.phase = .responding response ∧ SamePorts s t

/-- A request that waits for the transport has offered its own frame, and the frame carries `ADDR` (R101). -/
theorem exec_waitWrite {i : Instr} {s t : State} {op : Byte} {f : Frame} (h : exec i s = .next t)
    (hp : t.phase = .waitWrite op f) : ∃ c d, op = i.opcode ∧ f = frame s.addr c d := by
  cases exec_meaning i with
  | frame c d hi =>
    obtain rfl := Host.Outcome.next.inj (h.symm.trans (hi s))
    obtain ⟨rfl, rfl⟩ := Phase.waitWrite.inj hp
    exact ⟨c, d, rfl, rfl⟩
  | address a ha hi =>
    obtain rfl := Host.Outcome.next.inj (h.symm.trans (hi s))
    cases hp
  | response response hi =>
    obtain rfl := Host.Outcome.next.inj (h.symm.trans (hi s))
    cases hp
  | drawn response draws hf hi =>
    obtain rfl := Host.Outcome.next.inj (h.symm.trans (hi s))
    cases hp

theorem legalResponse_length {response : List Byte} (h : legalResponse response = true) : response.length ≤ 6 := by
  unfold legalResponse at h
  split at h
  · simp
  · simp
  · simp
  · cases h

theorem responseToAnswers_shape (op : Byte) (wa : WriteAnswer) (ba : BaudAnswer) :
    responseToAnswers op wa ba = [0x00, 0x00] ∨ ∃ sub, responseToAnswers op wa ba = [0x01, sub] := by
  cases wa with
  | err sub n => exact .inr ⟨sub, rfl⟩
  | ok =>
    cases ba with
    | ok => exact .inl rfl
    | err sub changed =>
      by_cases hop : op = 0x23
      · exact .inr ⟨sub, if_pos hop⟩
      · exact .inl (if_neg hop)

theorem responseToAnswers_legal (op : Byte) (wa : WriteAnswer) (ba : BaudAnswer) :
    legalResponse (responseToAnswers op wa ba) = true ∧ (responseToAnswers op wa ba).length = 2 := by
  obtain h | ⟨sub, h⟩ := responseToAnswers_shape op wa ba <;> rw [h] <;> exact ⟨rfl, rfl⟩

/-- Only `SET_BAUD_RATE` waits for the second answer (R170). -/
theorem responseToAnswers_of_ne {op : Byte} (h : op ≠ 0x23) (ba : BaudAnswer) :
    responseToAnswers op .ok ba = [0x00, 0x00] := by
  cases ba with
  | ok => rfl
  | err sub changed => exact if_neg h

section
variable {s : State} {wa : WriteAnswer} {was : List WriteAnswer} {ba : BaudAnswer} {bas : List BaudAnswer}

/-- The rate offered last of a request is answered in one step (R176). -/
theorem waitBaud_answered {r : Word32} (hp : s.phase = .waitBaud r) (hr : s.resetLine = [])
    (hb : s.baudAnswers = ba :: bas) : answersWithin 1 s (responseToAnswers 0x23 .ok ba) := by
  have hstep : step s = .next (afterBaud ba (withBaudAnswer r ba bas s)) := by
    rw [step_waitBaud (resetAsserted_of_nil hr) hp, clockReset_of_nil hr, answerBaud_cons r hb]
    rfl
  refine ⟨1, _, le_rfl, (runSteps_one s).trans hstep, ?_⟩
  cases ba with
  | ok => exact ⟨rfl, rfl, rfl, rfl, rfl⟩
  | err sub changed => exact ⟨rfl, rfl, rfl, rfl, rfl⟩

/-- A step taken first. -/
theorem answersWithin_step {t : State} {k : Nat} {response : List Byte} (hstep : step s = .next t)
    (hports : SamePorts s t) (h : answersWithin k t response) : answersWithin (k + 1) s response := by
  obtain ⟨n, u, hn, hreach, hp, hu⟩ := h
  refine ⟨n + 1, u, Nat.succ_le_succ hn, (runSteps_succ n hstep).trans hreach, hp, ?_⟩
  exact ⟨hu.reqPort.trans hports.reqPort, hu.hostReady.trans hports.hostReady, hu.taken.trans hports.taken,
    hu.resetLine.trans hports.resetLine⟩

/-- A frame offered is answered in one step, and with the rate after it in two (R170, R176). -/
theorem offerFrame_answered {op c d : Byte} (hf : admittedFrame op c d) (hr : s.resetLine = [])
    (hw : s.writeAnswers = wa :: was) (hb : s.baudAnswers = ba :: bas) :
    answersWithin 2 (offerFrame op c d s) (responseToAnswers op wa ba) := by
  obtain ⟨-, -, hrate⟩ := hf
  have hstep : step (offerFrame op c d s) = .next (afterWrite op (frame s.addr c d) wa
      (withWriteAnswer (frame s.addr c d) wa was (offerFrame op c d s))) := by
    rw [step_waitWrite (s := offerFrame op c d s) (resetAsserted_of_nil hr) rfl,
      clockReset_of_nil (s := offerFrame op c d s) hr, answerWrite_cons _ _ (s := offerFrame op c d s) hw]
    rfl
  cases wa with
  | err sub n => exact answersWithin_step hstep ⟨rfl, rfl, rfl, rfl⟩ ⟨0, _, Nat.zero_le 1, rfl, rfl, rfl, rfl, rfl, rfl⟩
  | ok =>
    by_cases hop : op = 0x23
    · obtain ⟨r, hd⟩ := Option.isSome_iff_exists.mp (hrate hop)
      have hpending : pendingRate op (frame s.addr c d) = some r := (if_pos hop).trans hd
      rw [afterWrite_ok_some _ hpending] at hstep
      subst hop
      exact answersWithin_step hstep ⟨rfl, rfl, rfl, rfl⟩ (waitBaud_answered rfl hr hb)
    · rw [afterWrite_ok_none _ (pendingRate_of_ne _ hop)] at hstep
      rw [responseToAnswers_of_ne hop]
      exact answersWithin_step hstep ⟨rfl, rfl, rfl, rfl⟩ ⟨0, _, Nat.zero_le 1, rfl, rfl, rfl, rfl, rfl, rfl⟩

/-- Every request is answered, with a legal response: the one it begins, or the one the transport's answers decide. -/
theorem exec_answered (i : Instr) (hr : s.resetLine = []) (hw : s.writeAnswers = wa :: was)
    (hb : s.baudAnswers = ba :: bas) :
    ∃ u k response, exec i s = .next u ∧ SamePorts s u ∧ answersWithin k u response ∧ k + response.length ≤ 6 ∧
      legalResponse response = true ∧
      (u.phase = .responding response ∨
        ∃ op f, u.phase = .waitWrite op f ∧ response = responseToAnswers i.opcode wa ba) := by
  obtain ⟨op, c, d, hf, ho⟩ | ⟨response, addr, draws, hl, ho⟩ := exec_offersOrAnswers i s
  · obtain ⟨_, _, rfl, -⟩ := exec_waitWrite ho rfl
    obtain ⟨hlegal, hlen⟩ := responseToAnswers_legal i.opcode wa ba
    exact ⟨_, 2, _, ho, ⟨rfl, rfl, rfl, rfl⟩, offerFrame_answered hf hr hw hb, by omega, hlegal, .inr ⟨_, _, rfl, rfl⟩⟩
  · refine ⟨_, 0, response, ho, ⟨rfl, rfl, rfl, rfl⟩, ⟨0, _, le_rfl, rfl, rfl, rfl, rfl, rfl, rfl⟩, ?_, hl, .inl rfl⟩
    rw [Nat.zero_add]
    exact legalResponse_length hl

end

/-- Once the response is begun, a host that stands ready for all of it takes it, and the block is `Idle` (R39). -/
theorem answersWithin_delivered {k : Nat} {s : State} {response : List Byte} (h : answersWithin k s response)
    (hne : response ≠ []) (hr : s.resetLine = []) (hready : response.length ≤ s.hostReady) :
    ∃ n t, n ≤ k + response.length ∧ reaches n s t ∧ t.phase = .idle ∧ t.reqPort = s.reqPort ∧
      t.taken = s.taken ++ response ∧ t.hostReady + response.length = s.hostReady := by
  obtain ⟨m, u, hm, hreach, hp, hports⟩ := h
  have hcount : u.hostReady = (s.hostReady - response.length) + response.length := by
    rw [hports.hostReady, Nat.sub_add_cancel hready]
  have hdone := reaches_delivered hne hp (hports.resetLine.trans hr) hcount
  exact ⟨m + response.length, _, Nat.add_le_add_right hm _, (runSteps_add _ hreach).trans hdone, rfl, hports.reqPort,
    congrArg (· ++ response) hports.taken, Nat.sub_add_cancel hready⟩

/-- `SET_ADDRESS` is received in two steps and its response taken in two more (R171). -/
theorem reaches_setAddress {a : Byte} {n : Nat} {rest : List Byte} {s : State} (hp : s.phase = .idle)
    (hr : s.resetLine = []) (hn : s.hostReady = n + 2) (hport : s.reqPort = 0x01 :: a :: rest) :
    reaches 4 s { s with
      addr := a, phase := .idle, reqPort := rest, hostReady := n, taken := s.taken ++ [0x00, 0x00] } := by
  have hset : runSteps 2 s = .next (respondOk [] { s with addr := a, reqPort := rest }) :=
    runSteps_encode (i := .setAddress a) rfl hp hr hport
  have htaken := reaches_delivered (s := respondOk [] { s with addr := a, reqPort := rest })
    (response := [0x00, 0x00]) (n := n) (List.cons_ne_nil _ _) rfl hr hn
  exact (runSteps_add 2 hset).trans htaken

end Sys2Proof.Machine
end

section
/-! The claims about requests, responses and runs (10_state.md R36 to R39, R45). -/

open Sys2Proof Sys2Proof.Machine

/-- Settles O13: after `SET_ADDRESS` and its response the block is `Idle` with the new `ADDR` when the second request
arrives. -/
theorem setAddressActsOnNextRequest : Obligations.SetAddressActsOnNextRequest := by
  intro a i s n rest hwf hp hr hn hport
  have hset := reaches_setAddress hp hr hn hport
  have hrun : runSteps (4 + (encode i).length) s =
      exec i { s with addr := a, reqPort := rest, hostReady := n, taken := s.taken ++ [0x00, 0x00] } := by
    refine ((runSteps_add _ hset).trans (runSteps_encode hwf rfl hr rfl)).trans ?_
    exact exec_withPhase i
      { s with addr := a, reqPort := rest, hostReady := n, taken := s.taken ++ [0x00, 0x00] } .idle
  refine ⟨hrun, fun t op f ht hphase => ?_⟩
  obtain ⟨c, d, -, rfl⟩ := exec_waitWrite (hrun.symm.trans ht) hphase
  rfl

/-- Settles O38, by induction over the bytes of the response (`reaches_delivered`). -/
theorem responseDelivered : Obligations.ResponseDelivered :=
  fun _ _ _ hne hp hr hn => reaches_delivered hne hp hr hn

/-- Settles O39, by induction over the steps: each leaves the state as it was. -/
theorem untakenResponseWaits : Obligations.UntakenResponseWaits := by
  intro b rest n s hp hr hn
  have hstep : step s = .next s := by
    rw [step_responding (resetAsserted_of_nil hr) hp, clockReset_of_nil hr, deliver_waits b rest hn]
  induction n with
  | zero => rfl
  | succ n ih => exact (runSteps_succ n hstep).trans ih

/-- Settles O40: the request is received, answered within two steps, and its response taken. -/
theorem everyRequestGetsOneResponse : Obligations.EveryRequestGetsOneResponse := by
  intro i s rest wa was ba bas hwf hp hr hport hready hw hb
  obtain ⟨u, k, response, hexec, hports, hanswer, hlen, hlegal, hphase⟩ :=
    exec_answered (s := withRequestBytes rest s) i hr hw hb
  have hreceived : runSteps (encode i).length s = .next u := (runSteps_encode hwf hp hr hport).trans hexec
  have hfits : response.length ≤ u.hostReady := by
    rw [hports.hostReady]
    exact le_trans (by omega) hready
  obtain ⟨n, t, hn, hreach, hidle, hleft, htaken, hcount⟩ :=
    answersWithin_delivered hanswer (ne_nil_of_legalResponse hlegal) (hports.resetLine.trans hr) hfits
  exact ⟨(encode i).length + n, t, response, by omega, (runSteps_add n hreceived).trans hreach, hidle,
    hleft.trans hports.reqPort, hlegal, by rw [htaken, hports.taken]; rfl, hcount.trans hports.hostReady, u,
    hexec, hphase⟩

/-- Settles O8, both clauses from `step_accepts`. -/
theorem stepRunsDecodedRequest : Obligations.StepRunsDecodedRequest := by
  intro s q rest b hr hp hport
  have hstep := step_accepts hr ⟨hp, hport⟩
  refine ⟨fun i hd => ?whole, fun e op bytes hq hd => ?more⟩
  case whole => exact hstep.trans (runRequest_complete _ hd)
  case more =>
    rw [runRequest_partial _ hd, hq] at hstep
    exact hstep

/-- Settles O43: the phase is `Idle`, and the history is empty. -/
theorem resetStateIsLegal : Obligations.ResetStateIsLegal := by
  have hhist : legalHistory State.reset := fun o hmem => nomatch hmem
  refine ⟨legal_idle hhist rfl, rfl, fun before r after h => ?_⟩
  exact absurd h.symm (List.append_ne_nil_of_right_ne_nil before (List.cons_ne_nil _ _))

end

section
/-! The claims about one step: what each port gains or loses, and when `ADDR` and the transport's rate change. -/

open Sys2Proof Sys2Proof.Machine

/-- Settles O10: only the three moves that accept a byte change the request port. -/
theorem requestBytesAcceptedInOrder : Obligations.RequestBytesAcceptedInOrder := by
  intro s t hstep
  cases step_move hstep with
  | reset hr => exact .inl (takeReset_reqPort _)
  | receive q b rest e hb hd => exact .inr ⟨hb.phase, b, hb.reqPort⟩
  | offer q b rest op c d hb hf => exact .inr ⟨hb.phase, b, hb.reqPort⟩
  | answer q b rest i left response addr draws hb hd hl ha => exact .inr ⟨hb.phase, b, hb.reqPort⟩
  | wait => exact .inl rfl
  | writeAnswered op f a rest hp hw => exact .inl (afterWrite_reqPort op f a _)
  | baudAnswered r a rest hp hw => exact .inl (afterBaud_reqPort a _)
  | ended hp => exact .inl rfl
  | take b rest n hr hp hn => exact .inl rfl

/-- Settles O46: a request offers one frame, and the answer `Ok` to it may be followed by one rate. -/
theorem oneTransportOperationOutstanding : Obligations.OneTransportOperationOutstanding := by
  intro s t hstep
  cases step_move hstep with
  | reset hr => exact .inl (takeReset_offered _)
  | receive q b rest e hb hd => exact .inl rfl
  | offer q b rest op c d hb hf => exact .inr ⟨_, rfl, hb.phase.imp_right .inl⟩
  | answer q b rest i left response addr draws hb hd hl ha => exact .inl rfl
  | wait => exact .inl rfl
  | writeAnswered op f a rest hp hw =>
    obtain ⟨sub, h⟩ | h | ⟨r, rfl, -, h⟩ := afterWrite_cases op f a (withWriteAnswer f a rest (clockReset s)) <;> rw [h]
    · exact .inl rfl
    · exact .inl rfl
    · exact .inr ⟨_, rfl, .inr (.inr ⟨op, f, hp, hw⟩)⟩
  | baudAnswered r a rest hp hw => exact .inl (afterBaud_offered a _)
  | ended hp => exact .inl rfl
  | take b rest n hr hp hn => exact .inl rfl

/-- Settles O47: of all moves only reset and the response to `SET_ADDRESS` store an address. -/
theorem addressChangesOnlyBySetAddressOrReset : Obligations.AddressChangesOnlyBySetAddressOrReset := by
  intro s t hstep hne
  cases step_move hstep with
  | reset hr => exact .inl ⟨hr, rfl⟩
  | receive q b rest e hb hd => exact absurd rfl hne
  | offer q b rest op c d hb hf => exact absurd rfl hne
  | answer q b rest i left response addr draws hb hd hl ha =>
    obtain hsame | rfl := ha
    · exact absurd hsame hne
    · exact .inr ⟨q, b, rest, addr, left, hb.accepted, hb.reqPort, hd, rfl⟩
  | wait => exact absurd rfl hne
  | writeAnswered op f a rest hp hw => exact absurd (afterWrite_addr op f a _) hne
  | baudAnswered r a rest hp hw => exact absurd (afterBaud_addr a _) hne
  | ended hp => exact absurd rfl hne
  | take b rest n hr hp hn => exact absurd rfl hne

/-- Settles O48: the rate changes with the answer to a rate, or with reset while one is in flight. -/
theorem lineRateChangesOnlyByTxSetBaud : Obligations.LineRateChangesOnlyByTxSetBaud := by
  intro s t hstep hne
  cases step_move hstep with
  | reset hr => exact (takeReset_lineRate (clockReset s)).resolve_left hne
  | receive q b rest e hb hd => exact absurd rfl hne
  | offer q b rest op c d hb hf => exact absurd rfl hne
  | answer q b rest i left response addr draws hb hd hl ha => exact absurd rfl hne
  | wait => exact absurd rfl hne
  | writeAnswered op f a rest hp hw => exact absurd (afterWrite_lineRate op f a _) hne
  | baudAnswered r a rest hp hw =>
    rw [afterBaud_lineRate] at hne ⊢
    have hrate : rateAfter r s.lineRate a = r := (rateAfter_cases r s.lineRate a).resolve_left hne
    exact hp.trans (congrArg Phase.waitBaud hrate.symm)
  | ended hp => exact absurd rfl hne
  | take b rest n hr hp hn => exact absurd rfl hne

/-- Settles O57: only the move in which the host takes a byte changes what it has taken. -/
theorem responseBytesTakenInOrder : Obligations.ResponseBytesTakenInOrder := by
  intro s t hstep
  cases step_move hstep with
  | reset hr => exact .inl ⟨takeReset_taken _, takeReset_hostReady _⟩
  | receive q b rest e hb hd => exact .inl ⟨rfl, rfl⟩
  | offer q b rest op c d hb hf => exact .inl ⟨rfl, rfl⟩
  | answer q b rest i left response addr draws hb hd hl ha => exact .inl ⟨rfl, rfl⟩
  | wait => exact .inl ⟨rfl, rfl⟩
  | writeAnswered op f a rest hp hw => exact .inl ⟨afterWrite_taken op f a _, afterWrite_hostReady op f a _⟩
  | baudAnswered r a rest hp hw => exact .inl ⟨afterBaud_taken a _, afterBaud_hostReady a _⟩
  | ended hp => exact .inl ⟨rfl, rfl⟩
  | take b rest n hr hp hn =>
    refine .inr ⟨hr, b, rest, hp, hn, rfl, fun hlast => ?_, fun hmore => ?_⟩
    · exact congrArg afterTaking hlast
    · exact afterTaking_of_ne_nil hmore

/-- Settles O42: reset stores `DEFAULT_ADDRESS` and `Idle`, and the rate moves only with one in flight. -/
theorem resetValues : Obligations.ResetValues := by
  refine ⟨⟨rfl, rfl⟩, fun s hr hwait => ⟨_, step_reset hr, rfl, rfl, ?_⟩⟩
  exact (takeReset_lineRate (clockReset s)).resolve_right (hwait _)

/-- Settles O49: `exec_meaning` gives one frame for each `ADDR`, and one response for each count of draws. -/
theorem requestReadsOnlyAddress : Obligations.RequestReadsOnlyAddress := by
  intro i s t haddr hdraws
  cases exec_meaning i with
  | frame c d h =>
    exact ⟨.waitWrite i.opcode (frame s.addr c d), [.write (frame s.addr c d)], _, _, h s, h t, rfl, by rw [haddr]; rfl,
      rfl, by rw [haddr]; rfl, haddr⟩
  | address a hi h =>
    exact ⟨.responding [0x00, 0x00], [], _, _, h s, h t, rfl, rfl, (List.append_nil _).symm,
      (List.append_nil _).symm, rfl⟩
  | response response h =>
    exact ⟨.responding response, [], _, _, h s, h t, rfl, rfl, (List.append_nil _).symm, (List.append_nil _).symm, haddr⟩
  | drawn response draws hi h =>
    rw [h s, h t, hdraws hi]
    exact ⟨.responding (response t.nanDraws), [], _, _, rfl, rfl, rfl, rfl, (List.append_nil _).symm,
      (List.append_nil _).symm, haddr⟩

end

section
/-! The transport's line (20_memory.md R65): what an answer to a frame puts on it, and that nothing else does. -/

namespace Sys2Proof.Machine

/-- Whatever the transport answers, what it has put on the line is the frame's first bytes (R170, U9). -/
theorem lineBytes_eq_take (f : Frame) (a : WriteAnswer) : ∃ k ≤ 4, lineBytes f a = f.bytes.take k := by
  cases a with
  | ok => exact ⟨4, le_rfl, rfl⟩
  | err sub reached => exact ⟨reached.val, Nat.le_of_lt_succ reached.isLt, rfl⟩

@[simp] theorem afterWrite_line (op : Byte) (f : Frame) (a : WriteAnswer) (s : State) :
    (afterWrite op f a s).line = s.line := by
  obtain ⟨_, _, h⟩ := afterWrite_eq op f a s
  rw [h]

@[simp] theorem afterBaud_line (a : BaudAnswer) (s : State) : (afterBaud a s).line = s.line := by
  obtain ⟨_, h⟩ := afterBaud_eq a s
  rw [h]

/-- An answer to a frame ends the wait for it: a response follows, or the wait for the rate (R36, R176). -/
theorem afterWrite_phase_ne_waitWrite (op : Byte) (f : Frame) (a : WriteAnswer) (s : State) (op' : Byte) (g : Frame) :
    (afterWrite op f a s).phase ≠ .waitWrite op' g := by
  obtain ⟨sub, h⟩ | h | ⟨r, -, -, h⟩ := afterWrite_cases op f a s <;> rw [h] <;> exact nofun

/-- Only of a frame in flight at reset can bytes still reach the line, the first ones of it (R271). -/
theorem takeReset_line (s : State) :
    (takeReset s).line = s.line ∨
      ∃ op f k, s.phase = .waitWrite op f ∧ k ≤ 4 ∧ (takeReset s).line = s.line ++ f.bytes.take k := by
  cases hp : s.phase with
  | waitWrite op f =>
    cases hw : s.writeAnswers with
    | nil => rw [takeReset, abandonTransport_write_nil hp hw]; exact .inl rfl
    | cons a rest =>
      obtain ⟨k, hk, hbytes⟩ := lineBytes_eq_take f a
      rw [takeReset, abandonTransport_write_cons hp hw]
      exact .inr ⟨op, f, k, rfl, hk, congrArg (s.line ++ ·) hbytes⟩
  | waitBaud r =>
    cases hw : s.baudAnswers with
    | nil => rw [takeReset, abandonTransport_baud_nil hp hw]; exact .inl rfl
    | cons a rest => rw [takeReset, abandonTransport_baud_cons hp hw]; exact .inl rfl
  | idle => exact .inl (by simp only [takeReset, abandonTransport, hp])
  | receiving op bytes => exact .inl (by simp only [takeReset, abandonTransport, hp])
  | responding rest => exact .inl (by simp only [takeReset, abandonTransport, hp])

end Sys2Proof.Machine
end

section
/-! The claim about the transport's line. -/

open Sys2Proof Sys2Proof.Machine

/-- Settles O58: the line grows with the answer to a frame, or with reset while one is in flight; both end the wait. -/
theorem lineGrowsOnlyByWaitingFrame : Obligations.LineGrowsOnlyByWaitingFrame := by
  intro s t hstep
  cases step_move hstep with
  | reset hr =>
    refine (takeReset_line (clockReset s)).imp_right fun ⟨op, f, k, hp, hk, hline⟩ => ?_
    exact ⟨op, f, k, hp, hk, hline, fun g => nofun⟩
  | receive q b rest e hb hd => exact .inl rfl
  | offer q b rest op c d hb hf => exact .inl rfl
  | answer q b rest i left response addr draws hb hd hl ha => exact .inl rfl
  | wait => exact .inl rfl
  | writeAnswered op f a rest hp hw =>
    obtain ⟨k, hk, hbytes⟩ := lineBytes_eq_take f a
    refine .inr ⟨op, f, k, hp, hk, ?_, afterWrite_phase_ne_waitWrite op f a _ op⟩
    rw [afterWrite_line, ← hbytes]
    rfl
  | baudAnswered r a rest hp hw => exact .inl (afterBaud_line a _)
  | ended hp => exact .inl rfl
  | take b rest n hr hp hn => exact .inl rfl

end

section
/-! Decoding is the inverse of encoding (30_encoding.md R80 to R85): for each format, the bytes read are the encoding of the
request, and how many of them there are (R87). -/

namespace Sys2Proof

section
variable {op : Byte} {q rest : List Byte} {i : Instr}

/-! ### What is read is well formed and encodes to the bytes read -/

theorem encode_of_decodeRQ8 {mk : Byte → Instr} (hmk : ∀ a, (mk a).wellFormed = true ∧ encode (mk a) = [op, a])
    (h : decodeRQ8 mk q = .ok (i, rest)) : i.wellFormed = true ∧ encode i ++ rest = op :: q := by
  obtain ⟨a, rfl, rfl⟩ := decodeRQ8_cases h
  obtain ⟨hwf, henc⟩ := hmk a
  exact ⟨hwf, by rw [henc]; rfl⟩

theorem encode_of_decodeRQ32 {mk : Word32 → Instr}
    (hmk : ∀ a, (mk a).wellFormed = true ∧ encode (mk a) = op :: Machine.bytes32 a)
    (h : decodeRQ32 mk q = .ok (i, rest)) : i.wellFormed = true ∧ encode i ++ rest = op :: q := by
  obtain ⟨a, rfl, rfl⟩ := decodeRQ32_cases h
  obtain ⟨hwf, henc⟩ := hmk a
  exact ⟨hwf, by rw [henc]; rfl⟩

theorem encode_of_decodeRQ5X32 {mk : Word32 → Word32 → Word32 → Word32 → Word32 → Instr}
    (hmk : ∀ a b c d e, (mk a b c d e).wellFormed = true ∧ encode (mk a b c d e) =
      op :: (Machine.bytes32 a ++ Machine.bytes32 b ++ Machine.bytes32 c ++ Machine.bytes32 d ++ Machine.bytes32 e))
    (h : decodeRQ5X32 mk q = .ok (i, rest)) : i.wellFormed = true ∧ encode i ++ rest = op :: q := by
  obtain ⟨a, b, c, d, e, rfl, rfl⟩ := decodeRQ5X32_cases h
  obtain ⟨hwf, henc⟩ := hmk a b c d e
  exact ⟨hwf, by rw [henc]; rfl⟩

theorem encode_of_decodeTimeout (h : decodeRQ16 .setSerialTimeout q = .ok (i, rest)) :
    i.wellFormed = true ∧ encode i ++ rest = opSetSerialTimeout :: q := by
  obtain ⟨a, rfl, rfl⟩ := decodeRQ16_cases h
  exact ⟨rfl, rfl⟩

/-- The count of a `CHECKSUM` is a `u16`, so the data read is never too long, and its length gives the count back. -/
theorem encode_of_decodeChecksum (h : decodeRQV .checksum q = .ok (i, rest)) :
    i.wellFormed = true ∧ encode i ++ rest = opChecksum :: q := by
  obtain ⟨n, data, rfl, hn, rfl⟩ := decodeRQV_cases h
  have hcount : BitVec.ofNat 16 data.length = n := by rw [hn, BitVec.ofNat_toNat, BitVec.setWidth_eq]
  refine ⟨decide_eq_true (hn.trans_le (Nat.le_of_lt_succ n.isLt)), ?_⟩
  rw [encode, Instr.operandBytes, hcount]
  rfl

/-- Whatever the decoder reads is well formed, and its encoding is the bytes read. -/
theorem encode_of_decode (h : decode q = .ok (i, rest)) : i.wellFormed = true ∧ encode i ++ rest = q := by
  cases q with
  | nil => cases h
  | cons op q =>
    replace h : decodeOperands op q = .ok (i, rest) := h
    by_cases hop : op ∈ assignedOpcodes
    · simp only [assignedOpcodes, List.mem_cons, List.not_mem_nil, or_false] at hop
      obtain rfl | rfl | rfl | rfl | rfl | rfl | rfl | rfl | rfl | rfl | rfl | rfl | rfl | rfl | rfl | rfl := hop
      · exact encode_of_decodeRQ8 (mk := .setAddress) (fun _ => ⟨rfl, rfl⟩) h
      · exact encode_of_decodeRQ8 (mk := .driveM1) (fun _ => ⟨rfl, rfl⟩) h
      · exact encode_of_decodeRQ8 (mk := .driveM2) (fun _ => ⟨rfl, rfl⟩) h
      · exact encode_of_decodeRQ8 (mk := .driveMixed) (fun _ => ⟨rfl, rfl⟩) h
      · exact encode_of_decodeRQ8 (mk := .turnMixed) (fun _ => ⟨rfl, rfl⟩) h
      · exact encode_of_decodeRQ8 (mk := .setMinVoltage) (fun _ => ⟨rfl, rfl⟩) h
      · exact encode_of_decodeRQ8 (mk := .setMaxVoltage) (fun _ => ⟨rfl, rfl⟩) h
      · exact encode_of_decodeTimeout h
      · exact encode_of_decodeRQ32 (mk := .setBaudRate) (fun _ => ⟨rfl, rfl⟩) h
      · exact encode_of_decodeRQ8 (mk := .setRamping) (fun _ => ⟨rfl, rfl⟩) h
      · exact encode_of_decodeRQ8 (mk := .setDeadband) (fun _ => ⟨rfl, rfl⟩) h
      · exact encode_of_decodeChecksum h
      · exact encode_of_decodeRQ5X32 (mk := .mapRangeI) (fun _ _ _ _ _ => ⟨rfl, rfl⟩) h
      · exact encode_of_decodeRQ5X32 (mk := .mapRangeF) (fun _ _ _ _ _ => ⟨rfl, rfl⟩) h
      · exact encode_of_decodeRQ32 (mk := .ratioToValue) (fun _ => ⟨rfl, rfl⟩) h
      · exact encode_of_decodeRQ32 (mk := .valueToRatio) (fun _ => ⟨rfl, rfl⟩) h
    · rw [decodeOperands_unassigned hop] at h
      obtain ⟨rfl, rfl⟩ := Prod.mk.inj (Except.ok.inj h)
      exact ⟨decide_eq_true hop, rfl⟩

end

/-! ### How many bytes a request takes -/

section
variable {op : Byte} {q : List Byte}

/-- A request takes `k` bytes where `k` bytes are enough and every request read is `k` bytes long: with fewer bytes the
decoder can only answer truncated. -/
theorem requestTakes_of {k : Nat} (henough : k ≤ q.length + 1 → ∃ o, decode (op :: q) = .ok o)
    (hread : ∀ i rest, decode (op :: q) = .ok (i, rest) → ∃ operands, q = operands ++ rest ∧ operands.length + 1 = k) :
    Machine.requestTakes k op q := by
  unfold Machine.requestTakes
  split
  case isTrue hshort =>
    cases h : decode (op :: q) with
    | error e => rw [decode_cons_error h]
    | ok o =>
      obtain ⟨operands, rfl, hlen⟩ := hread o.1 o.2 h
      rw [List.length_append] at hshort
      omega
  case isFalse hlong =>
    obtain ⟨⟨i, rest⟩, h⟩ := henough (by omega)
    obtain ⟨operands, rfl, rfl⟩ := hread i rest h
    exact ⟨i, by rw [h, Nat.add_sub_cancel, List.drop_left]⟩

theorem decode_ok_of_requestTakes {k : Nat} (h : Machine.requestTakes k op q) (hk : k ≤ q.length + 1) :
    ∃ i rest, decode (op :: q) = .ok (i, rest) := by
  rw [Machine.requestTakes, if_neg (Nat.not_lt.mpr hk)] at h
  obtain ⟨i, h⟩ := h
  exact ⟨i, _, h⟩

theorem exists_bytes16_append (h : 2 ≤ q.length) : ∃ a rest, q = Machine.bytes16 a ++ rest := by
  match q, h with
  | a0 :: a1 :: rest, _ => exact ⟨Machine.le16 a0 a1, rest, by rw [Machine.bytes16_le16]; rfl⟩

theorem exists_bytes32_append {n : Nat} (h : n + 4 ≤ q.length) :
    ∃ a rest, q = Machine.bytes32 a ++ rest ∧ n ≤ rest.length := by
  match q, h with
  | a0 :: a1 :: a2 :: a3 :: rest, h =>
    exact ⟨Machine.le32 a0 a1 a2 a3, rest, by rw [Machine.bytes32_le32]; rfl, Nat.le_of_add_le_add_right h⟩

theorem requestTakes_rq8 {mk : Byte → Instr} (hop : decodeOperands op q = decodeRQ8 mk q) :
    Machine.requestTakes 2 op q := by
  refine requestTakes_of (fun hlen => ?_) fun i rest h => ?_
  · obtain ⟨a, rest, rfl⟩ := List.exists_cons_of_length_pos (Nat.le_of_succ_le_succ hlen)
    exact ⟨_, hop.trans (decodeRQ8_cons mk a rest)⟩
  · obtain ⟨a, rfl, -⟩ := decodeRQ8_cases (hop.symm.trans h)
    exact ⟨[a], rfl, rfl⟩

theorem requestTakes_rq16 {mk : Word16 → Instr} (hop : decodeOperands op q = decodeRQ16 mk q) :
    Machine.requestTakes 3 op q := by
  refine requestTakes_of (fun hlen => ?_) fun i rest h => ?_
  · obtain ⟨a, rest, rfl⟩ := exists_bytes16_append (Nat.le_of_succ_le_succ hlen)
    exact ⟨_, hop.trans (decodeRQ16_bytes mk a rest)⟩
  · obtain ⟨a, rfl, -⟩ := decodeRQ16_cases (hop.symm.trans h)
    exact ⟨Machine.bytes16 a, rfl, rfl⟩

theorem requestTakes_rq32 {mk : Word32 → Instr} (hop : decodeOperands op q = decodeRQ32 mk q) :
    Machine.requestTakes 5 op q := by
  refine requestTakes_of (fun hlen => ?_) fun i rest h => ?_
  · obtain ⟨a, rest, rfl, -⟩ := exists_bytes32_append (n := 0) (Nat.le_of_succ_le_succ hlen)
    exact ⟨_, hop.trans (decodeRQ32_bytes mk a rest)⟩
  · obtain ⟨a, rfl, -⟩ := decodeRQ32_cases (hop.symm.trans h)
    exact ⟨Machine.bytes32 a, rfl, rfl⟩

theorem requestTakes_rq5x32 {mk : Word32 → Word32 → Word32 → Word32 → Word32 → Instr}
    (hop : decodeOperands op q = decodeRQ5X32 mk q) : Machine.requestTakes 21 op q := by
  refine requestTakes_of (fun hlen => ?_) fun i rest h => ?_
  · obtain ⟨a, q1, rfl, h1⟩ := exists_bytes32_append (n := 16) (Nat.le_of_succ_le_succ hlen)
    obtain ⟨b, q2, rfl, h2⟩ := exists_bytes32_append (n := 12) h1
    obtain ⟨c, q3, rfl, h3⟩ := exists_bytes32_append (n := 8) h2
    obtain ⟨d, q4, rfl, h4⟩ := exists_bytes32_append (n := 4) h3
    obtain ⟨e, rest, rfl, -⟩ := exists_bytes32_append (n := 0) h4
    exact ⟨_, hop.trans (decodeRQ5X32_bytes mk a b c d e rest)⟩
  · obtain ⟨a, b, c, d, e, rfl, -⟩ := decodeRQ5X32_cases (hop.symm.trans h)
    exact ⟨_, rfl, rfl⟩

/-- A `CHECKSUM` whose count has come takes as many data bytes as the count says (R87). -/
theorem requestTakes_rqv {mk : List Byte → Instr} {n : Word16}
    (hop : decodeOperands op (Machine.bytes16 n ++ q) = decodeRQV mk (Machine.bytes16 n ++ q)) :
    Machine.requestTakes (3 + n.toNat) op (Machine.bytes16 n ++ q) := by
  refine requestTakes_of (fun hlen => ?_) fun i rest h => ?_
  · rw [List.length_append, Machine.bytes16_length] at hlen
    have hdata : (q.take n.toNat).length = n.toNat := List.length_take_of_le (by omega)
    have h := decodeRQV_bytes mk n (q.take n.toNat) (q.drop n.toNat) hdata
    rw [List.append_assoc, List.take_append_drop] at h
    exact ⟨_, hop.trans h⟩
  · obtain ⟨m, data, hq, hlen, -⟩ := decodeRQV_cases (hop.symm.trans h)
    rw [List.append_assoc] at hq
    have hcount : n = m := by
      rw [← Machine.le16_extract n, ← Machine.le16_extract m]
      injection hq with h0 hq
      injection hq with h1 hq
      rw [h0, h1]
    subst hcount
    refine ⟨Machine.bytes16 n ++ data, by rw [hq, List.append_assoc], ?_⟩
    rw [List.length_append, Machine.bytes16_length, hlen]
    omega

theorem requestTakes_bare {i : Instr} (hop : decodeOperands op q = .ok (i, q)) : Machine.requestTakes 1 op q := by
  refine requestTakes_of (fun _ => ⟨_, hop⟩) fun j rest h => ?_
  obtain ⟨-, rfl⟩ := Prod.mk.inj (Except.ok.inj (hop.symm.trans h))
  exact ⟨[], rfl, rfl⟩

/-- The most bytes a request takes: a `CHECKSUM` with the greatest count (R8, R87). -/
theorem exists_requestTakes_le (op : Byte) (q : List Byte) (hq : 2 ≤ q.length) :
    ∃ k ≤ 3 + Machine.ckMaxLen, Machine.requestTakes k op q := by
  cases operandFormat op with
  | rq8 mk h => exact ⟨2, by decide, requestTakes_rq8 (h q)⟩
  | rq16 mk h => exact ⟨3, by decide, requestTakes_rq16 (h q)⟩
  | rq32 mk h => exact ⟨5, by decide, requestTakes_rq32 (h q)⟩
  | rq5x32 mk h => exact ⟨21, by decide, requestTakes_rq5x32 (h q)⟩
  | rqv mk h =>
    obtain ⟨n, data, rfl⟩ := exists_bytes16_append hq
    exact ⟨3 + n.toNat, Nat.add_le_add_left (Nat.le_of_lt_succ n.isLt) 3, requestTakes_rqv (h _)⟩
  | bare i h => exact ⟨1, by decide, requestTakes_bare (h q)⟩

end

/-- The ranges of R85 hold no opcode byte of R84. -/
theorem not_mem_assignedOpcodes {op : Byte}
    (h : op.toNat = 0 ∨ 0x02 ≤ op.toNat ∧ op.toNat ≤ 0x0F ∨ 0x14 ≤ op.toNat ∧ op.toNat ≤ 0x1F ∨
      0x26 ≤ op.toNat ∧ op.toNat ≤ 0x2F ∨ 0x35 ≤ op.toNat) : op ∉ assignedOpcodes := by
  revert op
  decide

end Sys2Proof
end

section
/-! The claims about encodings (30_encoding.md R80 to R88). -/

open Sys2Proof Sys2Proof.Machine

/-- Settles O1, by `decode_encode`. -/
theorem decodeInvertsEncode : Obligations.DecodeInvertsEncode := fun _ rest hwf => decode_encode rest hwf

/-- Settles O2, by `encode_of_decode`. -/
theorem encodeInvertsDecode : Obligations.EncodeInvertsDecode := fun _ _ _ h => encode_of_decode h

/-- Settles O3, by the format of each opcode byte; a CHECKSUM short of its count cannot be read. -/
theorem requestLengthFromOpcode : Obligations.RequestLengthFromOpcode := by
  refine ⟨fun op q => ⟨fun hop => ?byte, fun hop => ?word16, fun hop => ?word32, fun hop => ?five, fun hop => ?none⟩,
    fun q hq => ?noCount, fun n0 n1 q => ?count⟩
  case byte =>
    simp only [List.mem_cons, List.not_mem_nil, or_false] at hop
    obtain rfl | rfl | rfl | rfl | rfl | rfl | rfl | rfl | rfl := hop
    · exact requestTakes_rq8 (mk := .setAddress) rfl
    · exact requestTakes_rq8 (mk := .driveM1) rfl
    · exact requestTakes_rq8 (mk := .driveM2) rfl
    · exact requestTakes_rq8 (mk := .driveMixed) rfl
    · exact requestTakes_rq8 (mk := .turnMixed) rfl
    · exact requestTakes_rq8 (mk := .setMinVoltage) rfl
    · exact requestTakes_rq8 (mk := .setMaxVoltage) rfl
    · exact requestTakes_rq8 (mk := .setRamping) rfl
    · exact requestTakes_rq8 (mk := .setDeadband) rfl
  case word16 =>
    subst hop
    exact requestTakes_rq16 (mk := .setSerialTimeout) rfl
  case word32 =>
    simp only [List.mem_cons, List.not_mem_nil, or_false] at hop
    obtain rfl | rfl | rfl := hop
    · exact requestTakes_rq32 (mk := .setBaudRate) rfl
    · exact requestTakes_rq32 (mk := .ratioToValue) rfl
    · exact requestTakes_rq32 (mk := .valueToRatio) rfl
  case five =>
    simp only [List.mem_cons, List.not_mem_nil, or_false] at hop
    obtain rfl | rfl := hop
    · exact requestTakes_rq5x32 (mk := .mapRangeI) rfl
    · exact requestTakes_rq5x32 (mk := .mapRangeF) rfl
  case none => exact requestTakes_bare (decodeOperands_unassigned hop q)
  case noCount =>
    cases h : decode (0x30 :: q) with
    | error e => rw [decode_cons_error h]
    | ok o =>
      obtain ⟨n, data, rfl, -⟩ := decodeRQV_cases (mk := .checksum) (rest := o.2) (i := o.1) h
      simp only [List.length_append, bytes16_length] at hq
      omega
  case count =>
    have h := requestTakes_rqv (op := 0x30) (q := q) (mk := .checksum) (n := le16 n0 n1) rfl
    rwa [bytes16_le16, le16_toNat] at h

/-- Settles O5: no request is longer than the longest CHECKSUM, so as many bytes after those that came are enough. -/
theorem everyOperandPatternDecodes : Obligations.EveryOperandPatternDecodes := by
  intro op q
  refine ⟨3 + ckMaxLen, fun more hmore => ?_⟩
  have hlen : 3 + ckMaxLen ≤ (q ++ more).length := by rw [List.length_append]; exact hmore.trans (Nat.le_add_left _ _)
  obtain ⟨k, hk, htakes⟩ := exists_requestTakes_le op (q ++ more) (le_trans (by decide) hlen)
  exact decode_ok_of_requestTakes htakes (hk.trans (hlen.trans (Nat.le_succ _)))

/-- Settles O6: the bytes are the encodings of the requests. -/
theorem exampleRequestsDecode : Obligations.ExampleRequestsDecode :=
  ⟨decode_encode_self (i := .setAddress 0x81) rfl, decode_encode_self (i := .driveM1 0x80) rfl,
    decode_encode_self (i := .setSerialTimeout 12700) rfl, decode_encode_self (i := .setBaudRate 115200) rfl,
    decode_encode_self (i := .ratioToValue 0x3F800000) rfl,
    decode_encode_self (i := .checksum [0x80, 0x81, 0x04, 0x07, 0x09]) rfl⟩

/-- Settles O7: the ranges are those of the bytes that no row of R84 has. -/
theorem unassignedOpcodesAnswerUnknown : Obligations.UnassignedOpcodesAnswerUnknown := by
  refine ⟨fun op q s hrange => ⟨?_, rfl⟩, by decide +kernel⟩
  exact decodeOperands_unassigned (not_mem_assignedOpcodes hrange) q

end

section
/-! Bit patterns of binary32 by their fields (30_encoding.md R82): sign, exponent and fraction, and the values they have. -/

namespace Sys2Proof.Machine

/-- The bit pattern of the three fields of a binary32 (R82). -/
def fpFields (sign : BitVec 1) (e : BitVec 8) (f : BitVec 23) : Word32 := sign ++ e ++ f

section
variable (sign : BitVec 1) (e : BitVec 8) (f : BitVec 23)

theorem fpFields_toNat : (fpFields sign e f).toNat = sign.toNat * 2 ^ 31 + e.toNat * 2 ^ 23 + f.toNat := by
  have he := e.isLt
  have hf := f.isLt
  rw [fpFields, BitVec.toNat_append, BitVec.toNat_append, ← Nat.shiftLeft_add_eq_or_of_lt hf,
    ← Nat.shiftLeft_add_eq_or_of_lt he, Nat.shiftLeft_eq, Nat.shiftLeft_eq]
  omega

theorem fpFields_fraction : (fpFields sign e f).extractLsb' 0 23 = f := by
  apply BitVec.eq_of_toNat_eq
  have hf := f.isLt
  rw [BitVec.extractLsb'_toNat, Nat.shiftRight_eq_div_pow, fpFields_toNat]
  omega

theorem fpFields_exponent : (fpFields sign e f).extractLsb' 23 8 = e := by
  apply BitVec.eq_of_toNat_eq
  have hf := f.isLt
  have he := e.isLt
  rw [BitVec.extractLsb'_toNat, Nat.shiftRight_eq_div_pow, fpFields_toNat]
  omega

theorem fpFields_msb : (fpFields sign e f).msb = decide (sign = 1) := by
  have hf := f.isLt
  have he := e.isLt
  have hs := sign.isLt
  rw [BitVec.msb_eq_decide, fpFields_toNat, decide_eq_decide, ← BitVec.toNat_inj]
  show _ ↔ sign.toNat = 1
  omega

/-- The sign bit is what the model's `withSign` writes. -/
theorem withSign_fields : withSign (decide (sign = 1)) (e.toNat * 2 ^ 23 + f.toNat) = fpFields sign e f := by
  apply BitVec.eq_of_toNat_eq
  have he := e.isLt
  have hf := f.isLt
  have hsign : (if decide (sign = 1) then 2 ^ 31 else 0) = sign.toNat * 2 ^ 31 := by
    revert sign; decide
  rw [withSign, BitVec.toNat_ofNat, fpFields_toNat, hsign]
  have hs := sign.isLt
  omega

end

/-- Every bit pattern is that of its three fields. -/
theorem exists_fpFields (b : Word32) : ∃ sign e f, fpFields sign e f = b := by
  refine ⟨b.extractLsb' 31 1, b.extractLsb' 23 8, b.extractLsb' 0 23, BitVec.eq_of_toNat_eq ?_⟩
  have hb := b.isLt
  rw [fpFields_toNat]
  simp only [BitVec.extractLsb'_toNat, Nat.shiftRight_eq_div_pow]
  omega

/-! ### The value of a pattern -/

/-- The magnitude of a finite pattern, in units of 2^-149: the fraction, and from the exponent 1 on the implicit bit, scaled. -/
def fieldsMag (e : BitVec 8) (f : BitVec 23) : Nat := if e = 0 then f.toNat else (2 ^ 23 + f.toNat) * 2 ^ (e.toNat - 1)

section
variable (sign : BitVec 1) {e : BitVec 8} {f : BitVec 23}

theorem fpOfBits_inf (he : e = 255) (hf : f = 0) : fpOfBits (fpFields sign e f) = .inf (decide (sign = 1)) := by
  subst he hf
  simp only [fpOfBits, fpFields_fraction, fpFields_exponent, fpFields_msb]
  rfl

theorem fpOfBits_nan (he : e = 255) (hf : f ≠ 0) : fpOfBits (fpFields sign e f) = .nan := by
  have hf' : f.toNat ≠ 0 := fun h => hf (BitVec.eq_of_toNat_eq h)
  subst he
  simp only [fpOfBits, fpFields_fraction, fpFields_exponent, if_neg hf']
  rfl

theorem fpOfBits_fin (he : e ≠ 255) : fpOfBits (fpFields sign e f) = .fin (decide (sign = 1)) (fieldsMag e f) := by
  have he' : e.toNat ≠ 255 := fun h => he (BitVec.eq_of_toNat_eq h)
  have hzero : e.toNat = 0 ↔ e = 0 := (BitVec.toNat_inj (y := 0#8))
  simp only [fpOfBits, fpFields_fraction, fpFields_exponent, fpFields_msb, if_neg he', hzero, fieldsMag]
  split <;> rfl

/-- A pattern is a NaN where the exponent is 255 and the fraction is not 0. -/
theorem fpOfBits_eq_nan_iff : fpOfBits (fpFields sign e f) = .nan ↔ e = 255 ∧ f ≠ 0 := by
  refine ⟨fun h => ?_, fun ⟨he, hf⟩ => fpOfBits_nan sign he hf⟩
  by_cases he : e = 255
  · refine ⟨he, fun hf => ?_⟩
    rw [fpOfBits_inf sign he hf] at h
    cases h
  · rw [fpOfBits_fin sign he] at h
    cases h

end

/-- The magnitude in units of 2^-149 is the value IEEE 754 gives the fields (R82, log 11). -/
theorem fieldsMag_value (e : BitVec 8) (f : BitVec 23) :
    (fieldsMag e f : ℚ) * 2 ^ (-149 : ℤ) =
      if e = 0 then (f.toNat : ℚ) / 2 ^ 23 * 2 ^ (-126 : ℤ)
      else (1 + (f.toNat : ℚ) / 2 ^ 23) * 2 ^ ((e.toNat : ℤ) - 127) := by
  have hunit : (2 : ℚ) ^ (-126 : ℤ) = 2 ^ 23 * 2 ^ (-149 : ℤ) := by
    rw [← zpow_natCast, ← zpow_add₀ (by decide)]; rfl
  unfold fieldsMag
  split
  case isTrue he => rw [hunit]; ring
  case isFalse he =>
    have hpos : e.toNat ≠ 0 := fun h => he (BitVec.eq_of_toNat_eq h)
    have hscale : (2 : ℚ) ^ ((e.toNat : ℤ) - 127) = 2 ^ (e.toNat - 1) * 2 ^ (-126 : ℤ) := by
      rw [← zpow_natCast, ← zpow_add₀ (by decide)]
      congr 1
      omega
    rw [hscale, hunit]
    push_cast
    ring

/-! ### The pattern of a value -/

/-- The scale of a finite pattern's magnitude gives its exponent back, and the 24-bit number at that scale its fraction. -/
theorem significand_fieldsMag {e : BitVec 8} (f : BitVec 23) :
    fpScale (fieldsMag e f) * 2 ^ 23 + fieldsMag e f / 2 ^ fpScale (fieldsMag e f) = e.toNat * 2 ^ 23 + f.toNat := by
  have hf := f.isLt
  unfold fieldsMag
  split
  case isTrue he =>
    have hscale : fpScale f.toNat = 0 := by
      simpa using fpScale_mul_two_pow (r := f.toNat) (k := 0) (by omega) (.inl rfl)
    rw [hscale, he]
    simp
  case isFalse he =>
    have hpos : e.toNat ≠ 0 := fun h => he (BitVec.eq_of_toNat_eq h)
    rw [fpScale_mul_two_pow (by omega) (.inr (Nat.le_add_right _ _)), Nat.mul_div_cancel _ (by positivity)]
    omega

/-- A pattern that is no NaN is the pattern of its value. -/
theorem fpToBits_fpOfBits (draw : Bool × Fin 8388607) {b : Word32} (h : fpOfBits b ≠ .nan) :
    fpToBits draw (fpOfBits b) = b := by
  obtain ⟨sign, e, f, rfl⟩ := exists_fpFields b
  by_cases he : e = 255
  · have hf : f = 0 := by_contra fun hf => h (fpOfBits_nan sign he hf)
    rw [fpOfBits_inf sign he hf, ← withSign_fields, he, hf]
    rfl
  · rw [fpOfBits_fin sign he, fpToBits, significand_fieldsMag, withSign_fields]

/-! ### The patterns of NaN -/

/-- The draw's fraction as the field of the pattern. -/
theorem nanBits_fields (sign : BitVec 1) {f : BitVec 23} {k : Fin 8388607} (hk : k.val + 1 = f.toNat) :
    nanBits (decide (sign = 1), k) = fpFields sign 255 f := by
  rw [nanBits, hk]
  exact withSign_fields sign 255 f

theorem fpOfBits_nanBits (draw : Bool × Fin 8388607) : fpOfBits (nanBits draw) = .nan := by
  obtain ⟨neg, k⟩ := draw
  have hk : k.val + 1 = (BitVec.ofNat 23 (k.val + 1)).toNat := by
    rw [BitVec.toNat_ofNat]; omega
  have hne : BitVec.ofNat 23 (k.val + 1) ≠ 0 := fun h => by rw [h] at hk; exact absurd hk (Nat.succ_ne_zero _)
  have hneg : neg = decide (BitVec.ofBool neg = 1) := by cases neg <;> rfl
  rw [hneg, nanBits_fields _ hk]
  exact fpOfBits_nan _ rfl hne

/-- Every NaN pattern is one a draw stands for: its fraction is not 0, so a draw is one less (R8, log 5). -/
theorem exists_nanBits {b : Word32} (h : fpOfBits b = .nan) : ∃ draw, nanBits draw = b := by
  obtain ⟨sign, e, f, rfl⟩ := exists_fpFields b
  obtain ⟨rfl, hf⟩ := (fpOfBits_eq_nan_iff sign).mp h
  have hpos : f.toNat ≠ 0 := fun h => hf (BitVec.eq_of_toNat_eq h)
  have hlt := f.isLt
  exact ⟨(decide (sign = 1), ⟨f.toNat - 1, by omega⟩), nanBits_fields sign (Nat.sub_add_cancel (by omega))⟩

end Sys2Proof.Machine
end

section
/-! The claim about the bit patterns of binary32 (30_encoding.md R82). -/

open Sys2Proof Sys2Proof.Machine

/-- Settles O28, by the three fields of a pattern. -/
theorem floatBitsRoundTrip : Obligations.FloatBitsRoundTrip :=
  ⟨fun sign e f => ⟨fpOfBits_inf sign, fpOfBits_nan sign,
      fun he => ⟨fieldsMag e f, fpOfBits_fin sign he, fieldsMag_value e f⟩⟩,
    fun draw _ h => fpToBits_fpOfBits draw h,
    fun _ => ⟨exists_nanBits, fun ⟨draw, h⟩ => h ▸ fpOfBits_nanBits draw⟩⟩

end

section
/-! Response layouts (30_encoding.md R96): what each request that answers at once begins, and what the transport's answers
give. -/

namespace Sys2Proof.Machine

section
variable {i : Instr} {s t : State} {r : List Byte}

/-- A request that offers a frame begins no response yet. -/
theorem not_responding_of_offers {op c d : Byte} (ho : exec i s = .next (offerFrame op c d s)) (h : exec i s = .next t) :
    t.phase ≠ .responding r := by
  obtain rfl := Host.Outcome.next.inj (h.symm.trans ho)
  exact nofun

/-- A request that answers begins the response it answers, whatever else it changes. -/
theorem response_of_answers {status : Status} {sub : Byte} {payload : List Byte} {u : State}
    (ho : exec i s = .next (respond status sub payload u)) (h : exec i s = .next t) (hp : t.phase = .responding r) :
    r = statusByte status :: sub :: payload := by
  obtain rfl := Host.Outcome.next.inj (h.symm.trans ho)
  exact (Phase.responding.inj hp).symm

/-- `INVALID_INPUT` has a layout of R96 for every request. -/
theorem layoutFits_invalidInput (ho : exec i s = .next (raiseInvalidInput s)) (h : exec i s = .next t)
    (hp : t.phase = .responding r) : layoutFits i r :=
  .inl ⟨0x02, by decide, response_of_answers ho h hp⟩

/-- A 32-bit payload after `00 00` (R96). -/
theorem payload_of_answers {v : Word32} {u : State} (ho : exec i s = .next (respondOk (bytes32 v) u))
    (h : exec i s = .next t) (hp : t.phase = .responding r) : ∃ r0 r1 r2 r3, r = [0x00, 0x00, r0, r1, r2, r3] :=
  ⟨_, _, _, _, response_of_answers ho h hp⟩

end

/-- A request that begins a response begins one of its layouts (R96). -/
theorem exec_layoutFits {i : Instr} {s t : State} {r : List Byte} (h : exec i s = .next t)
    (hp : t.phase = .responding r) : layoutFits i r := by
  cases i with
  | setAddress a => exact .inr (response_of_answers (status := .ok) rfl h hp)
  | driveM1 a => exact absurd hp (not_responding_of_offers rfl h)
  | driveM2 a => exact absurd hp (not_responding_of_offers rfl h)
  | driveMixed a => exact absurd hp (not_responding_of_offers rfl h)
  | turnMixed a => exact absurd hp (not_responding_of_offers rfl h)
  | setMinVoltage a => exact absurd hp (not_responding_of_offers rfl h)
  | setMaxVoltage a => exact absurd hp (not_responding_of_offers rfl h)
  | setSerialTimeout a =>
    by_cases hbig : (timeoutMaxMs : Int) < u16 a
    · exact layoutFits_invalidInput (by rw [exec, execSetSerialTimeout, if_pos hbig]) h hp
    · exact absurd hp (not_responding_of_offers (by rw [exec, execSetSerialTimeout, if_neg hbig]) h)
  | setBaudRate a =>
    cases hcode : baudCode a with
    | none => exact layoutFits_invalidInput (by rw [exec, execSetBaudRate, hcode]) h hp
    | some d => exact absurd hp (not_responding_of_offers (by rw [exec, execSetBaudRate, hcode]) h)
  | setRamping a => exact absurd hp (not_responding_of_offers rfl h)
  | setDeadband a => exact absurd hp (not_responding_of_offers rfl h)
  | checksum data => exact .inr ⟨ck7 data, ck7_msb data, response_of_answers (status := .ok) rfl h hp⟩
  | mapRangeI fl fh tl th v =>
    by_cases hzero : i32 fh = i32 fl
    · exact layoutFits_invalidInput (by simp only [exec, execMapRangeI, if_pos hzero]) h hp
    · by_cases hfits : fitsI32 (mapZ (i32 fl) (i32 fh) (i32 tl) (i32 th) (i32 v)) = true
      · exact .inr (payload_of_answers (by simp only [exec, execMapRangeI, if_neg hzero, if_pos hfits]; rfl) h hp)
      · exact layoutFits_invalidInput (by simp only [exec, execMapRangeI, if_neg hzero, if_neg hfits]) h hp
  | mapRangeF fl fh tl th v =>
    by_cases hzero : fpIsZero (fsub (fpOfBits fh) (fpOfBits fl)) = true
    · exact layoutFits_invalidInput (by simp only [exec, execMapRangeF, if_pos hzero]) h hp
    · exact .inr (payload_of_answers (by simp only [exec, execMapRangeF, if_neg hzero]; rfl) h hp)
  | ratioToValue a =>
    by_cases hrange : ratioInRange (fpOfBits a) = true
    · exact .inr (payload_of_answers (by rw [exec, execRatioToValue, if_pos hrange]) h hp)
    · exact layoutFits_invalidInput (by rw [exec, execRatioToValue, if_neg hrange]) h hp
  | valueToRatio a => exact .inr (payload_of_answers rfl h hp)
  | unassigned op => exact .inl ⟨0x04, by decide, response_of_answers (status := .unknown) rfl h hp⟩

/-! ### After a wait -/

theorem afterWrite_response {op : Byte} {f : Frame} {a : WriteAnswer} {s : State} {r : List Byte}
    (hp : (afterWrite op f a s).phase = .responding r) : r = [0x00, 0x00] ∨ ∃ sub, r = [0x01, sub] := by
  obtain ⟨sub, h⟩ | h | ⟨rate, -, -, h⟩ := afterWrite_cases op f a s
  · rw [h] at hp
    exact .inr ⟨sub, (Phase.responding.inj hp).symm⟩
  · rw [h] at hp
    exact .inl (Phase.responding.inj hp).symm
  · rw [h] at hp
    cases hp

theorem afterBaud_response {a : BaudAnswer} {s : State} {r : List Byte} (hp : (afterBaud a s).phase = .responding r) :
    r = [0x00, 0x00] ∨ ∃ sub, r = [0x01, sub] := by
  obtain ⟨sub, h⟩ | h := afterBaud_cases a s
  · rw [h] at hp
    exact .inr ⟨sub, (Phase.responding.inj hp).symm⟩
  · rw [h] at hp
    exact .inl (Phase.responding.inj hp).symm

/-- A step that begins a response from the wait for the transport is the transport's answer: reset, and a transport that does
not answer, begin none (R170, R176). -/
theorem step_waiting_response {s t : State} {r : List Byte}
    (hwait : (∃ op f, s.phase = .waitWrite op f) ∨ ∃ rate, s.phase = .waitBaud rate) (h : step s = .next t)
    (hp : t.phase = .responding r) : r = [0x00, 0x00] ∨ ∃ sub, r = [0x01, sub] := by
  have hbusy : acceptedBytes s.phase = none := by
    obtain ⟨op, f, hs⟩ | ⟨rate, hs⟩ := hwait <;> rw [hs] <;> rfl
  have hresp : ∀ rest, s.phase ≠ .responding rest := by
    obtain ⟨op, f, hs⟩ | ⟨rate, hs⟩ := hwait <;> rw [hs] <;> exact fun _ => nofun
  cases step_move h with
  | reset hr => cases hp
  | receive q b rest e hb hd => cases hbusy.symm.trans hb.accepted
  | offer q b rest op c d hb hf => cases hp
  | answer q b rest i left response addr draws hb hd hl ha => cases hbusy.symm.trans hb.accepted
  | wait => exact absurd hp (hresp r)
  | writeAnswered op f a rest hs hw => exact afterWrite_response hp
  | baudAnswered rate a rest hs hw => exact afterBaud_response hp
  | ended hs => cases hp
  | take b rest n hr hs hn => exact absurd hs (hresp _)

end Sys2Proof.Machine
end

section
/-! The claim about response layouts (30_encoding.md R96). -/

open Sys2Proof Sys2Proof.Machine

/-- Settles O35, by the request that begins the response, or the transport's answer that does. -/
theorem responseLayouts : Obligations.ResponseLayouts :=
  ⟨fun _ _ _ _ h hp => exec_layoutFits h hp, fun _ _ _ hwait h hp => step_waiting_response hwait h hp⟩

end

section
/-! The affine map over `Z` (40_numeric_mapping.md R120): its quotient written out, its laws on an increasing from-range, and
what `MAP_RANGE_I` answers (R121). -/

namespace Sys2Proof.Machine

/-- The quotient toward zero by signs and magnitudes (00_scope.md R11). -/
theorem tdiv_eq_sign_mul (a b : Int) : Int.tdiv a b = a.sign * b.sign * ((a.natAbs / b.natAbs : Nat) : Int) := by
  have habs : (Int.tdiv a b).natAbs = a.natAbs / b.natAbs := Int.natAbs_tdiv a b
  rw [← Int.sign_mul_natAbs (Int.tdiv a b), habs, Int.sign_tdiv]
  split
  case isTrue hlt => rw [Nat.div_eq_of_lt hlt, Int.natCast_zero, mul_zero, mul_zero]
  case isFalse => rfl

theorem mapZ_eq_sign_mul (fl fh tl th v : Int) :
    mapZ fl fh tl th v = tl + ((v - fl) * (th - tl)).sign * (fh - fl).sign *
      ((((v - fl) * (th - tl)).natAbs / (fh - fl).natAbs : Nat) : Int) := by
  rw [mapZ, tdiv_eq_sign_mul]

theorem mapZ_low (fl fh tl th : Int) : mapZ fl fh tl th fl = tl := by
  rw [mapZ, sub_self, zero_mul, Int.zero_tdiv, add_zero]

theorem mapZ_high {fl fh : Int} (tl th : Int) (h : fl < fh) : mapZ fl fh tl th fh = th := by
  rw [mapZ, Int.mul_tdiv_cancel_left _ (by omega)]
  omega

/-- The map is monotone where the from-range increases and the to-range does not decrease. -/
theorem mapZ_mono {fl fh tl th v w : Int} (hfrom : fl < fh) (hto : tl ≤ th) (h : v ≤ w) :
    mapZ fl fh tl th v ≤ mapZ fl fh tl th w := by
  have hprod : (v - fl) * (th - tl) ≤ (w - fl) * (th - tl) := Int.mul_le_mul_of_nonneg_right (by omega) (by omega)
  exact Int.add_le_add_left (Int.tdiv_le_tdiv (by omega) hprod) tl

/-- From the low end on nothing is negative, so that rounding toward zero is the floor. -/
theorem mapZ_eq_fdiv {fl fh tl th v : Int} (hfrom : fl < fh) (hto : tl ≤ th) (h : fl ≤ v) :
    mapZ fl fh tl th v = tl + Int.fdiv ((v - fl) * (th - tl)) (fh - fl) := by
  rw [mapZ, Int.fdiv_eq_tdiv_of_nonneg (mul_nonneg (by omega) (by omega)) (by omega)]

/-! ### Answers with a 32-bit payload -/

/-- An answer with a 32-bit payload, byte by byte (20_memory.md R62, 30_encoding.md R96). -/
theorem respondOk_bytes32 (v : Word32) (s : State) : ∃ r0 r1 r2 r3 : Byte, r3 ++ r2 ++ r1 ++ r0 = v ∧
    respondOk (bytes32 v) s = responding [0x00, 0x00, r0, r1, r2, r3] s :=
  ⟨_, _, _, _, le32_extract v, rfl⟩

/-! ### `MAP_RANGE_I` -/

theorem fitsI32_iff (z : Int) : fitsI32 z = true ↔ -2 ^ 31 ≤ z ∧ z ≤ 2 ^ 31 - 1 := decide_eq_true_iff

section
variable {fl fh tl th v : Word32}

theorem exec_mapRangeI_degenerate (s : State) (h : fh.toInt = fl.toInt) :
    exec (.mapRangeI fl fh tl th v) s = .next (raiseInvalidInput s) := if_pos h

theorem exec_mapRangeI_fits (s : State) (h : fh.toInt ≠ fl.toInt)
    (hfits : fitsI32 (mapZ fl.toInt fh.toInt tl.toInt th.toInt v.toInt) = true) :
    exec (.mapRangeI fl fh tl th v) s =
      .next (respondOk (bytes32 (toI32 (mapZ fl.toInt fh.toInt tl.toInt th.toInt v.toInt))) s) :=
  (if_neg h).trans (if_pos hfits)

theorem exec_mapRangeI_overflow (s : State) (h : fh.toInt ≠ fl.toInt)
    (hover : ¬fitsI32 (mapZ fl.toInt fh.toInt tl.toInt th.toInt v.toInt) = true) :
    exec (.mapRangeI fl fh tl th v) s = .next (raiseInvalidInput s) :=
  (if_neg h).trans (if_neg hover)

end

end Sys2Proof.Machine
end

section
/-! The claims about the map over `Z` (40_numeric_mapping.md R120 to R122). -/

open Sys2Proof Sys2Proof.Machine

/-- Settles O25: the result is `mapZ` with its quotient written out, and each clause is one branch of R121. -/
theorem mapRangeIExact : Obligations.MapRangeIExact := by
  intro fl fh tl th v s
  dsimp only
  rw [← mapZ_eq_sign_mul, ← fitsI32_iff]
  refine ⟨exec_mapRangeI_degenerate s, fun hne hfits => ?_, exec_mapRangeI_overflow s⟩
  obtain ⟨hlow, hhigh⟩ := (fitsI32_iff _).1 hfits
  obtain ⟨r0, r1, r2, r3, hbytes, hrespond⟩ :=
    respondOk_bytes32 (toI32 (mapZ fl.toInt fh.toInt tl.toInt th.toInt v.toInt)) s
  exact ⟨r0, r1, r2, r3, by rw [hbytes, toI32_toInt hlow hhigh], by rw [exec_mapRangeI_fits s hne hfits, hrespond]⟩

/-- Settles O26: inside the range the bounds are the map's values at the ends, by monotonicity. -/
theorem mapZLaws : Obligations.MapZLaws := by
  refine ⟨fun fl fh tl th hfrom hto => ?_, by decide, by decide, by decide⟩
  have hlow := mapZ_low fl fh tl th
  have hhigh := mapZ_high tl th hfrom
  refine ⟨hlow, hhigh, fun v hl hh => ⟨?_, ?_⟩, fun v w => mapZ_mono hfrom hto, fun v => mapZ_eq_fdiv hfrom hto⟩
  · exact hlow.symm.le.trans (mapZ_mono hfrom hto hl)
  · exact (mapZ_mono hfrom hto hh).trans hhigh.le

end

section
/-! Results as bit patterns (00_scope.md R12, 30_encoding.md R82): every result of a rounding has a pattern, which reads back
as that result; and bounds that a rounding keeps. -/

namespace Sys2Proof.Machine

/-! ### Bounds that rounding keeps -/

/-- What is rounded to a finite value is rounded to one of the nearest representable magnitudes. -/
theorem nearest_of_correctlyRounded {neg neg' : Bool} {num den m : Nat}
    (hr : correctlyRounded neg num den (.fin neg' m)) :
    representable m ∧ ∀ m', representable m' → distance num den m ≤ distance num den m' := by
  unfold correctlyRounded at hr
  split at hr
  · cases hr
  · obtain ⟨m', hm', hrep, hnear⟩ := hr
    obtain ⟨-, rfl⟩ := Fp.fin.inj hm'
    exact ⟨hrep, fun m' hm' => (hnear m' hm').1⟩

/-- Rounding keeps a representable lower bound. -/
theorem le_of_correctlyRounded {neg neg' : Bool} {num den bound m : Nat} (hden : 0 < den) (hb : representable bound)
    (hle : bound * den ≤ num) (hr : correctlyRounded neg num den (.fin neg' m)) : bound ≤ m := by
  by_contra hlt
  exact absurd ((nearest_of_correctlyRounded hr).2 bound hb)
    (Nat.not_le.2 (distance_lt_of_lt hden (Nat.not_le.1 hlt) hle))

/-- A representable magnitude is rounded to itself. -/
theorem correctlyRounded_exact {neg : Bool} {num den m : Nat} {r : Fp} (hden : 0 < den) (hm : representable m)
    (heq : num = m * den) (hr : correctlyRounded neg num den r) : r = .fin neg m := by
  obtain ⟨m', rfl, hle⟩ := correctlyRounded_le hden hm heq.le hr
  rw [hle.antisymm (le_of_correctlyRounded hden hm heq.ge hr)]

/-- A nonzero magnitude of at least one unit is not rounded to zero: one unit, the smallest subnormal, is representable. -/
theorem fpIsZero_fpRound {neg : Bool} {n : Nat} (hn : n ≠ 0) : fpIsZero (fpRound neg n 1) = false := by
  have hr := fpRound_correctlyRounded neg n one_pos
  cases hx : fpRound neg n 1 with
  | nan => rfl
  | inf neg' => rfl
  | fin neg' m =>
    have hone : 1 ≤ m :=
      le_of_correctlyRounded one_pos ⟨1, 0, by decide, by decide, rfl⟩ (by omega) (hx ▸ hr)
    exact decide_eq_false (by omega)

/-! ### Patterns of results -/

/-- A value that has a pattern is the value of the pattern the model writes for it. -/
theorem fpOfBits_fpToBits (draw : Bool × Fin 8388607) {x : Fp} (h : ∃ b, fpOfBits b = x) :
    fpOfBits (fpToBits draw x) = x := by
  obtain ⟨b, rfl⟩ := h
  by_cases hnan : fpOfBits b = .nan
  · rw [hnan]
    exact fpOfBits_nanBits draw
  · rw [fpToBits_fpOfBits draw hnan]

theorem exists_sign (neg : Bool) : ∃ sign : BitVec 1, decide (sign = 1) = neg :=
  ⟨BitVec.ofBool neg, by cases neg <;> rfl⟩

theorem exists_bits_inf (neg : Bool) : ∃ b, fpOfBits b = .inf neg := by
  obtain ⟨sign, rfl⟩ := exists_sign neg
  exact ⟨_, fpOfBits_inf sign rfl rfl⟩

/-- A representable magnitude in its own scale: 24 bits, normalized but at the least scale. -/
theorem representable_normalForm {m : Nat} (h : representable m) :
    ∃ r i, m = r * 2 ^ i ∧ r < 2 ^ 24 ∧ i ≤ 253 ∧ (i = 0 ∨ 2 ^ 23 ≤ r) := by
  have hlt := lt_two_pow_fpScale m
  have hnormal := fpScale_zero_or_le m
  generalize fpScale m = i at hlt hnormal
  rw [pow_add] at hlt hnormal
  have hi : i ≤ 253 := by
    rcases hnormal with rfl | hle
    · exact Nat.zero_le _
    · have hpow : 2 ^ (23 + i) < 2 ^ (25 + 252) :=
        calc 2 ^ (23 + i) = 2 ^ 23 * 2 ^ i := pow_add ..
          _ ≤ m := hle
          _ < (2 ^ 25 - 1) * 2 ^ 252 := representable_lt h
          _ < 2 ^ 25 * 2 ^ 252 := Nat.mul_lt_mul_of_pos_right (by decide) (by positivity)
          _ = 2 ^ (25 + 252) := (pow_add ..).symm
      have := (Nat.pow_lt_pow_iff_right (by decide)).1 hpow
      omega
  rcases representable_cases h i with ⟨r, rfl⟩ | ⟨hi0, hsmall⟩
  · have hpos : 0 < 2 ^ i := by positivity
    exact ⟨r, i, rfl, Nat.lt_of_mul_lt_mul_right hlt, hi, hnormal.imp_right fun hle => Nat.le_of_mul_le_mul_right hle hpos⟩
  · exact absurd (hnormal.resolve_left hi0) (Nat.not_le.2 hsmall)

/-- A representable magnitude is that of a finite pattern. -/
theorem exists_fieldsMag {m : Nat} (h : representable m) : ∃ e f, e ≠ 255 ∧ fieldsMag e f = m := by
  obtain ⟨r, i, rfl, hr, hi, hnormal⟩ := representable_normalForm h
  unfold fieldsMag
  by_cases hsub : r < 2 ^ 23
  · have hi0 : i = 0 := hnormal.resolve_right (by omega)
    refine ⟨0, BitVec.ofNat 23 r, by decide, ?_⟩
    rw [if_pos rfl, BitVec.toNat_ofNat, Nat.mod_eq_of_lt hsub, hi0, pow_zero, mul_one]
  · have he : (BitVec.ofNat 8 (i + 1)).toNat = i + 1 := by rw [BitVec.toNat_ofNat]; omega
    have hf : (BitVec.ofNat 23 (r - 2 ^ 23)).toNat = r - 2 ^ 23 := by rw [BitVec.toNat_ofNat]; omega
    have hinf : BitVec.ofNat 8 (i + 1) ≠ 255 := fun h => by
      have : i + 1 = 255 := he.symm.trans (congrArg BitVec.toNat h)
      omega
    have hnormal : BitVec.ofNat 8 (i + 1) ≠ 0 := fun h =>
      Nat.succ_ne_zero i (he.symm.trans (congrArg BitVec.toNat h))
    refine ⟨BitVec.ofNat 8 (i + 1), BitVec.ofNat 23 (r - 2 ^ 23), hinf, ?_⟩
    rw [if_neg hnormal, he, hf, Nat.add_sub_cancel, Nat.add_sub_of_le (Nat.not_lt.1 hsub)]

theorem exists_bits_fin (neg : Bool) {m : Nat} (h : representable m) : ∃ b, fpOfBits b = .fin neg m := by
  obtain ⟨sign, rfl⟩ := exists_sign neg
  obtain ⟨e, f, he, rfl⟩ := exists_fieldsMag h
  exact ⟨_, fpOfBits_fin sign he⟩

theorem exists_bits_zero (neg : Bool) : ∃ b, fpOfBits b = .fin neg 0 :=
  exists_bits_fin neg ⟨0, 0, by decide, by decide, rfl⟩

theorem exists_bits_nan : ∃ b, fpOfBits b = .nan := ⟨_, fpOfBits_nanBits (false, 0)⟩

theorem exists_bits_fpRound (neg : Bool) (num : Nat) {den : Nat} (hden : 0 < den) :
    ∃ b, fpOfBits b = fpRound neg num den := by
  have hr := fpRound_correctlyRounded neg num hden
  cases hx : fpRound neg num den with
  | nan => exact exists_bits_nan
  | inf neg' => exact exists_bits_inf neg'
  | fin neg' m => exact exists_bits_fin neg' (nearest_of_correctlyRounded (hx ▸ hr)).1

theorem fadd_inf_inf (a b : Bool) : fadd (.inf a) (.inf b) = if a = b then .inf a else .nan := rfl

/-- Every sum has a pattern, whatever is added. -/
theorem exists_bits_fadd (x y : Fp) : ∃ b, fpOfBits b = fadd x y := by
  cases x with
  | nan => exact exists_bits_nan
  | inf a =>
    cases y with
    | nan => exact exists_bits_nan
    | inf b =>
      rw [fadd_inf_inf]
      split
      · exact exists_bits_inf a
      · exact exists_bits_nan
    | fin b n => exact exists_bits_inf a
  | fin a m =>
    cases y with
    | nan => exact exists_bits_nan
    | inf b => exact exists_bits_inf b
    | fin b n =>
      rw [fadd_fin]
      split
      · exact exists_bits_zero _
      · exact exists_bits_fpRound _ _ one_pos

/-- The difference of finite values is a zero where they are equal, and nowhere else: nothing underflows (R126). -/
theorem fpIsZero_fsub_fin (a b : Bool) (m n : Nat) :
    fpIsZero (fsub (.fin b n) (.fin a m)) = true ↔ signedMag a m = signedMag b n := by
  rw [fsub_fin]
  split
  case isTrue h => exact iff_of_true rfl (sub_eq_zero.1 h).symm
  case isFalse h =>
    rw [fpIsZero_fpRound (Int.natAbs_ne_zero.2 h)]
    exact iff_of_false Bool.false_ne_true fun heq => h (sub_eq_zero.2 heq.symm)

/-! ### `MAP_RANGE_F` -/

section
variable {fl fh tl th v : Word32} (s : State)

theorem exec_mapRangeF_degenerate (h : fpIsZero (fsub (fpOfBits fh) (fpOfBits fl)) = true) :
    exec (.mapRangeF fl fh tl th v) s = .next (raiseInvalidInput s) := if_pos h

theorem exec_mapRangeF_maps (h : ¬fpIsZero (fsub (fpOfBits fh) (fpOfBits fl)) = true) :
    exec (.mapRangeF fl fh tl th v) s =
      .next (respondOk (bytes32 (fpToBits (currentDraw s) (operandsMapF fl fh tl th v)))
        (countDraw (operandsMapF fl fh tl th v) s)) := if_neg h

end

theorem exists_bits_operandsMapF (fl fh tl th v : Word32) : ∃ b, fpOfBits b = operandsMapF fl fh tl th v :=
  exists_bits_fadd _ _

end Sys2Proof.Machine
end

section
/-! The claims about `MAP_RANGE_F` (40_numeric_mapping.md R125, R126). -/

open Sys2Proof Sys2Proof.Machine

/-- Settles O29: the last of the six steps is a sum, and every sum has a pattern, which the answer's bytes are. -/
theorem mapRangeFAnswers : Obligations.MapRangeFAnswers := by
  intro fl fh tl th v s
  dsimp only
  rw [← fpIsZero_iff]
  refine ⟨exec_mapRangeF_degenerate s, fun hne => ?_⟩
  obtain ⟨r0, r1, r2, r3, hbytes, hrespond⟩ :=
    respondOk_bytes32 (fpToBits (currentDraw s) (operandsMapF fl fh tl th v)) (countDraw (operandsMapF fl fh tl th v) s)
  refine ⟨r0, r1, r2, r3, ?_, ?_⟩
  · rw [hbytes]
    exact fpOfBits_fpToBits _ (exists_bits_operandsMapF fl fh tl th v)
  · rw [exec_mapRangeF_maps s hne, hrespond, countDraw_eq]
    rfl

/-- Settles O30, by the exact difference of the ends. -/
theorem floatRangeDegenerateWhenEqual : Obligations.FloatRangeDegenerateWhenEqual := by
  intro fl fh a b m n hlow hhigh
  rw [hlow, hhigh]
  exact fpIsZero_fsub_fin a b m n

end

section
/-! Ratios (40_numeric_mapping.md R130, R135): which values are in range, the quotient by 2047.0 and the product with it, and
that the product of the quotient is the value again. -/

namespace Sys2Proof.Machine

/-! ### The range and the clamp -/

theorem ratioInRange_fin (neg : Bool) {m : Nat} (h : m ≤ 2 ^ 149) : ratioInRange (.fin neg m) = true := by
  obtain ⟨hlow, hhigh⟩ := signedMag_bounds neg h
  exact Bool.and_eq_true_iff.2 ⟨(fpLe_fin ..).2 hlow, (fpLe_fin ..).2 hhigh⟩

/-- The clamp of a ratio in range may be left out (R131). -/
theorem ratioValue_eq_fconv (conv : RatioConv) {a : Fp} (h : ratioInRange a = true) :
    ratioValue conv a = fconv conv (fmul a (fpOfInt 2047)) := by
  obtain ⟨hlow, hhigh⟩ := (clampNeverActs a h).2 conv
  exact (min_eq_right (max_le (by decide) hhigh)).trans (max_eq_right hlow)

theorem exec_ratioToValue_inRange {a : Word32} (s : State) (h : ratioInRange (fpOfBits a) = true) :
    exec (.ratioToValue a) s = .next (respondOk (bytes32 (toI32 (ratioValue Config.ratioConv (fpOfBits a)))) s) :=
  if_pos h

theorem exec_ratioToValue_outOfRange {a : Word32} (s : State) (h : ¬ratioInRange (fpOfBits a) = true) :
    exec (.ratioToValue a) s = .next (raiseInvalidInput s) := if_neg h

theorem exec_valueToRatio (a : Word32) (s : State) :
    exec (.valueToRatio a) s = .next (respondOk (bytes32 (fpToBits (currentDraw s) (valueRatio a.toInt))) s) := rfl

/-! ### The product and the quotient -/

theorem distance_mul_right (num den m c : Nat) : distance (num * c) (den * c) m = distance num den m * c := by
  have hfactor : ((num * c : Nat) : Int) - m * ((den * c : Nat) : Int) = (num - m * den) * c := by push_cast; ring
  rw [distance, hfactor, Int.natAbs_mul, Int.natAbs_natCast]
  rfl

/-- A fraction is rounded as it is in lower terms. -/
theorem correctlyRounded_of_mul {neg : Bool} {num den c : Nat} {r : Fp} (hc : 0 < c)
    (h : correctlyRounded neg (num * c) (den * c) r) : correctlyRounded neg num den r := by
  unfold correctlyRounded at h ⊢
  rw [← mul_assoc] at h
  simp only [Nat.mul_le_mul_right_iff hc, distance_mul_right, Nat.mul_left_inj hc.ne'] at h
  exact h

/-- 2047.0 times a magnitude, rounded (R130). -/
theorem fmul_2047_rounded (neg : Bool) (m : Nat) :
    correctlyRounded neg (m * 2047) 1 (fmul (.fin neg m) (fpOfInt 2047)) := by
  have hr := fpRound_correctlyRounded (neg != false) (m * (2047 * 2 ^ 149)) (den := 2 ^ 149) (by positivity)
  rw [fpOfInt_2047, fmul_fin]
  rw [Bool.bne_false] at hr ⊢
  exact correctlyRounded_of_mul (c := 2 ^ 149) (by positivity) (by rwa [mul_assoc, one_mul])

/-- A magnitude divided by 2047.0, rounded (R135). -/
theorem valueRatio_rounded {v : Int} {neg : Bool} {m : Nat} (h : fpOfInt v = .fin neg m) :
    correctlyRounded neg m 2047 (valueRatio v) := by
  have hr := fpRound_correctlyRounded (neg != false) (m * 2 ^ 149) (den := 2047 * 2 ^ 149) (by positivity)
  have hscale : fpRatioScale = .fin false (2047 * 2 ^ 149) := fpOfInt_2047
  rw [valueRatio, h, hscale, fdiv_fin _ _ _ (by decide)]
  rw [Bool.bne_false] at hr ⊢
  exact correctlyRounded_of_mul (by positivity) hr

/-- The ratio of every `i32` is finite: its magnitude is at most that of 2^31, which is representable. -/
theorem exists_valueRatio_fin {v : Int} (h : v.natAbs ≤ 2 ^ 31) :
    ∃ neg m, valueRatio v = .fin neg m ∧ representable m := by
  have hbound : representable (2 ^ 180) := ⟨1, 180, by decide, by decide, (one_mul _).symm⟩
  have hle : v.natAbs * 2 ^ 149 ≤ 2 ^ 180 * 1 := by
    rw [mul_one, show 180 = 31 + 149 from rfl, pow_add]
    exact Nat.mul_le_mul_right _ h
  obtain ⟨m, hm, hmle⟩ := correctlyRounded_le one_pos hbound hle
    (fpOfInt_eq v ▸ fpRound_correctlyRounded (decide (v < 0)) (v.natAbs * 2 ^ 149) one_pos)
  have hr := valueRatio_rounded hm
  obtain ⟨q, hq, -⟩ := correctlyRounded_le (by decide) hbound (hmle.trans (Nat.le_mul_of_pos_right _ (by decide))) hr
  exact ⟨_, q, hq, (nearest_of_correctlyRounded (hq ▸ hr)).1⟩

/-- The pattern of a ratio has the ratio's value, whatever the draw. -/
theorem fpOfBits_valueRatio (draw : Bool × Fin 8388607) {v : Int} (h : v.natAbs ≤ 2 ^ 31) :
    fpOfBits (fpToBits draw (valueRatio v)) = valueRatio v := by
  obtain ⟨neg, m, hm, hrep⟩ := exists_valueRatio_fin h
  rw [hm]
  exact fpOfBits_fpToBits draw (exists_bits_fin neg hrep)

/-! ### The product of the quotient

A magnitude `n` from 1 to 2047 is `w * 2^(24 + k)` units with `w` from 1024 to 2047. Its quotient by 2047 has 24 bits in units of
`2^k`, so the product is off by less than `2^(10 + k)` units before it is rounded. The representable magnitudes near `w * 2^(24 + k)`
are `2^(11 + k)` apart, and the error twice over is less. Only below `w = 1024`, a power of two, are they half as dense; there the
quotient's error is far smaller. -/

/-- The quotient by 2047 is off by at most half a unit, and by much less where `w` is the power of two. -/
theorem exists_quotient_near {w : Nat} (h : w ≤ 2047) : ∃ r ≤ 2 ^ 24,
    2 * distance (w * 2 ^ 24) 2047 r ≤ 2047 ∧ (w = 1024 → distance (w * 2 ^ 24) 2047 r = 2) := by
  refine ⟨rneDiv (w * 2 ^ 24) 2047, ?_, (rneDiv_within_half _ (by decide)).1, ?_⟩
  · exact rneDiv_le (by decide) (by omega)
  · rintro rfl
    decide

theorem representable_mul_two_pow {r k : Nat} (hr : r ≤ 2 ^ 24) (hk : k ≤ 252) : representable (r * 2 ^ k) := by
  rcases hr.lt_or_eq with hlt | rfl
  · exact ⟨r, k, hlt, by omega, rfl⟩
  · exact ⟨2 ^ 23, k + 1, by decide, by omega, by rw [pow_succ]; ring⟩

/-- In the scale `g + k`, whose least normal magnitude lies below `a * 2^k`, representable magnitudes are `2^(g + k)` apart: one
nearer to a multiple of that is it. -/
theorem eq_of_representable_near {a d g k p : Nat} (hp : representable p) (hdvd : 2 ^ g ∣ a) (hd : d < 2 ^ g)
    (hnormal : 2 ^ 23 * 2 ^ g + d ≤ a) (hnear : distance (a * 2 ^ k) 1 p ≤ d * 2 ^ k) : p = a * 2 ^ k := by
  have hpos : 0 < 2 ^ k := by positivity
  rcases representable_cases hp (g + k) with ⟨j, rfl⟩ | ⟨-, hsmall⟩
  · obtain ⟨b, rfl⟩ := hdvd
    have hunits : 2 ^ g * b * 2 ^ k = b * 2 ^ (g + k) := by rw [pow_add]; ring
    have hlt : distance b 1 j * 2 ^ (g + k) < 1 * 2 ^ (g + k) :=
      calc distance b 1 j * 2 ^ (g + k) = distance (b * 2 ^ (g + k)) 1 (j * 2 ^ (g + k)) := by
            rw [distance_mul_two_pow, distance_mul_right]
        _ ≤ d * 2 ^ k := hunits ▸ hnear
        _ < 2 ^ g * 2 ^ k := Nat.mul_lt_mul_of_pos_right hd hpos
        _ = 1 * 2 ^ (g + k) := by rw [pow_add, one_mul]
    have hzero := Nat.lt_of_mul_lt_mul_right hlt
    unfold distance at hzero
    rw [hunits, show j = b by omega]
  · have hfar : (2 ^ 23 * 2 ^ g + d) * 2 ^ k ≤ a * 2 ^ k := Nat.mul_le_mul_right _ hnormal
    rw [add_mul, mul_assoc, ← pow_add] at hfar
    unfold distance at hnear
    omega

/-- A whole number from 1 to 2047 in units of 2^-149, as an 11-bit number `w` shifted into the quotient's scale. -/
theorem exists_normalized {n : Nat} (hpos : n ≠ 0) (h : n ≤ 2047) :
    ∃ w k, n * 2 ^ 149 = w * 2 ^ 24 * 2 ^ k ∧ 1024 ≤ w ∧ w ≤ 2047 ∧ k ≤ 125 := by
  have hlow : 2 ^ n.log2 ≤ n := Nat.log2_self_le hpos
  have hhigh : n < 2 ^ (n.log2 + 1) := Nat.lt_log2_self
  generalize n.log2 = j at hlow hhigh
  have hj : j ≤ 10 := by
    by_contra hlarge
    have hpow : 2 ^ 11 ≤ 2 ^ j := Nat.pow_le_pow_right (by decide) (by omega)
    omega
  refine ⟨n * 2 ^ (10 - j), 115 + j, ?_, ?_, ?_, by omega⟩
  · rw [mul_assoc, mul_assoc, ← pow_add, ← pow_add]
    congr 2
    omega
  · calc 1024 = 2 ^ j * 2 ^ (10 - j) := by rw [← pow_add, Nat.add_sub_of_le hj]; rfl
      _ ≤ n * 2 ^ (10 - j) := Nat.mul_le_mul_right _ hlow
  · refine Nat.le_of_lt_succ ?_
    calc n * 2 ^ (10 - j) < 2 ^ (j + 1) * 2 ^ (10 - j) := Nat.mul_lt_mul_of_pos_right hhigh (by positivity)
      _ = 2048 := by rw [← pow_add, show j + 1 + (10 - j) = 11 by omega]; rfl

/-- Rounding a multiple of the rounded quotient leaves at most twice the quotient's error, where the exact product is
representable. -/
theorem distance_roundTrip_le {neg neg' : Bool} {num den m p m' : Nat} (hnum : representable num) (hm' : representable m')
    (hm : correctlyRounded neg num den (.fin neg m)) (hp : correctlyRounded neg' (m * den) 1 (.fin neg' p)) :
    distance num 1 p ≤ 2 * distance num den m' := by
  have hquot := (nearest_of_correctlyRounded hm).2 m' hm'
  have hprod := (nearest_of_correctlyRounded hp).2 num hnum
  unfold distance at *
  push_cast at *
  omega

/-- Dividing a whole number up to 2047 by 2047 and multiplying again gives it back, each result rounded. -/
theorem roundTrip_magnitude {neg neg' : Bool} {n m p : Nat} (hn : n ≤ 2047)
    (hm : correctlyRounded neg (n * 2 ^ 149) 2047 (.fin neg m))
    (hp : correctlyRounded neg' (m * 2047) 1 (.fin neg' p)) : p = n * 2 ^ 149 := by
  by_cases hpos : n = 0
  · subst hpos
    have hzero : representable 0 := ⟨0, 0, by decide, by decide, rfl⟩
    obtain ⟨-, rfl⟩ := Fp.fin.inj (correctlyRounded_exact (by decide) hzero (by simp) hm)
    obtain ⟨-, rfl⟩ := Fp.fin.inj (correctlyRounded_exact one_pos hzero (by simp) hp)
    simp
  · obtain ⟨w, k, hunits, hlow, hhigh, hk⟩ := exists_normalized hpos hn
    obtain ⟨r, hr, hhalf, hpow⟩ := exists_quotient_near hhigh
    rw [hunits] at hm ⊢
    have hexact : representable (w * 2 ^ 24 * 2 ^ k) := by
      rw [mul_assoc, ← pow_add]
      exact representable_mul_two_pow (by omega) (by omega)
    have hquot : representable (r * 2 ^ k) := representable_mul_two_pow hr (by omega)
    have hnear := distance_roundTrip_le hexact hquot hm hp
    rw [distance_mul_two_pow, distance_mul_right, ← mul_assoc] at hnear
    have hp' := (nearest_of_correctlyRounded hp).1
    by_cases hw : w = 1024
    · have herror := hpow hw
      exact eq_of_representable_near (g := 10) hp' (by omega) (by omega) (by omega) hnear
    · exact eq_of_representable_near (g := 11) hp' (by omega) (by omega) (by omega) hnear

/-! ### The round trip -/

section
variable {v : Int} (h : v.natAbs ≤ 2047)
include h

theorem fpOfInt_exact : fpOfInt v = .fin (decide (v < 0)) (v.natAbs * 2 ^ 149) :=
  correctlyRounded_exact one_pos ⟨v.natAbs, 149, by omega, by decide, rfl⟩ (mul_one _).symm
    (fpOfInt_eq v ▸ fpRound_correctlyRounded _ _ one_pos)

/-- The ratio of a value up to 2047 is in range. -/
theorem exists_valueRatio_inRange : ∃ m ≤ 2 ^ 149, valueRatio v = .fin (decide (v < 0)) m := by
  have hle : v.natAbs * 2 ^ 149 ≤ 2 ^ 149 * 2047 := by
    rw [mul_comm]
    exact Nat.mul_le_mul_left _ h
  obtain ⟨m, hm, hbound⟩ := correctlyRounded_le (by decide) ⟨1, 149, by decide, by decide, (one_mul _).symm⟩ hle
    (valueRatio_rounded (fpOfInt_exact h))
  exact ⟨m, hbound, hm⟩

theorem ratioInRange_valueRatio : ratioInRange (valueRatio v) = true := by
  obtain ⟨m, hle, hm⟩ := exists_valueRatio_inRange h
  exact hm ▸ ratioInRange_fin _ hle

theorem fmul_valueRatio : fmul (valueRatio v) (fpOfInt 2047) = fpOfInt v := by
  obtain ⟨m, hle, hm⟩ := exists_valueRatio_inRange h
  have hquot := valueRatio_rounded (fpOfInt_exact h)
  have hprod := fmul_2047_rounded (decide (v < 0)) m
  rw [hm] at hquot ⊢
  have hbound : m * 2047 ≤ 2047 * 2 ^ 149 * 1 := by
    rw [mul_one, mul_comm]
    exact Nat.mul_le_mul_left _ hle
  obtain ⟨p, hp, -⟩ := correctlyRounded_le one_pos ⟨2047, 149, by decide, by decide, rfl⟩ hbound hprod
  rw [hp] at hprod ⊢
  rw [roundTrip_magnitude h hquot hprod, fpOfInt_exact h]

theorem fconv_fpOfInt (conv : RatioConv) : fconv conv (fpOfInt v) = v := by
  have hunit : 0 < 2 ^ 149 := by positivity
  have hround : rneDiv (v.natAbs * 2 ^ 149) (2 ^ 149) = v.natAbs :=
    (rneDiv_le hunit le_rfl).antisymm (le_rneDiv hunit le_rfl)
  have hsign : signedMag (decide (v < 0)) v.natAbs = v := by
    by_cases hneg : v < 0
    · rw [decide_eq_true hneg, signedMag_true]; omega
    · rw [decide_eq_false hneg, signedMag_false]; omega
  rw [fpOfInt_exact h]
  cases conv with
  | trunc => rw [fconv_trunc, Nat.mul_div_cancel _ hunit, hsign]
  | rne => rw [fconv_rne, hround, hsign]

theorem ratioValue_valueRatio (conv : RatioConv) : ratioValue conv (valueRatio v) = v := by
  rw [ratioValue_eq_fconv conv (ratioInRange_valueRatio h), fmul_valueRatio h, fconv_fpOfInt h]

end

end Sys2Proof.Machine
end

section
/-! The claims about ratios (40_numeric_mapping.md R130, R131, R135). -/

open Sys2Proof Sys2Proof.Machine

/-- Settles O31: a ratio in range is finite of magnitude at most 1.0, and its clamp never acts. -/
theorem ratioToValueAnswers : Obligations.RatioToValueAnswers := by
  refine fun a s => ⟨fun neg m hbits hm => ?inRange, fun hlarge => ?outOfRange⟩
  case inRange =>
    have hin : ratioInRange (fpOfBits a) = true := hbits ▸ ratioInRange_fin neg hm
    obtain ⟨⟨pn, p, hprod, -⟩, hclamp⟩ := clampNeverActs _ hin
    obtain ⟨hlow, hhigh⟩ := hclamp Config.ratioConv
    obtain ⟨r0, r1, r2, r3, hbytes, hrespond⟩ :=
      respondOk_bytes32 (toI32 (ratioValue Config.ratioConv (fpOfBits a))) s
    rw [← ratioValue_eq_fconv _ hin] at hlow hhigh
    refine ⟨ratioValue Config.ratioConv (fpOfBits a), r0, r1, r2, r3, ?_, hlow, hhigh,
      by rw [hbytes, toI32_toInt (by omega) (by omega)], by rw [exec_ratioToValue_inRange s hin, hrespond]⟩
    rw [ratioValue_eq_fconv _ hin, hprod]
    cases Config.ratioConv with
    | trunc => exact fconv_trunc pn p
    | rne => exact fconv_rne pn p
  case outOfRange =>
    refine exec_ratioToValue_outOfRange s fun hin => ?_
    obtain ⟨neg, m, hbits, hm⟩ := ratioInRange_cases hin
    exact absurd (hlarge neg m hbits) (Nat.not_lt.2 hm)

/-- Settles O33: the quotient is finite and representable, so the answer's bytes are a pattern of it. -/
theorem valueToRatioAnswers : Obligations.ValueToRatioAnswers := by
  intro a s
  have hrange : a.toInt.natAbs ≤ 2 ^ 31 := by
    have hlow := BitVec.le_toInt (x := a)
    have hhigh := BitVec.toInt_lt (x := a)
    omega
  obtain ⟨neg, m, hm, -⟩ := exists_valueRatio_fin hrange
  obtain ⟨r0, r1, r2, r3, hbytes, hrespond⟩ := respondOk_bytes32 (fpToBits (currentDraw s) (valueRatio a.toInt)) s
  exact ⟨neg, m, r0, r1, r2, r3, hm, by rw [hbytes, fpOfBits_valueRatio _ hrange, hm],
    by rw [exec_valueToRatio, hrespond]⟩

/-- Settles O34: the product of the ratio with 2047.0 is the value itself, which both conversions keep. -/
theorem ratioRoundTrip : Obligations.RatioRoundTrip := by
  refine ⟨fun v hlow hhigh conv draw => ?bits, fun a s hlow hhigh => ?requests⟩
  case bits =>
    have hv : v.natAbs ≤ 2047 := by omega
    rw [fpOfBits_valueRatio draw (by omega)]
    exact ⟨ratioInRange_valueRatio hv, ratioValue_valueRatio hv conv⟩
  case requests =>
    have ha : a.toInt.natAbs ≤ 2047 := by omega
    obtain ⟨r0, r1, r2, r3, hbytes, hrespond⟩ := respondOk_bytes32 (fpToBits (currentDraw s) (valueRatio a.toInt)) s
    have hvalue : fpOfBits (r3 ++ r2 ++ r1 ++ r0) = valueRatio a.toInt := by
      rw [hbytes, fpOfBits_valueRatio _ (by omega)]
    have hin : ratioInRange (fpOfBits (r3 ++ r2 ++ r1 ++ r0)) = true := hvalue ▸ ratioInRange_valueRatio ha
    refine ⟨r0, r1, r2, r3, by rw [exec_valueToRatio, hrespond], ?_⟩
    rw [exec_ratioToValue_inRange s hin, hvalue, ratioValue_valueRatio ha, toI32, BitVec.ofInt_toInt]
    rfl

end

section
/-! What the checksum of R150 is modulo 128: how it meets permuting, appending, masking and a running sum (41_checksum.md
R153). -/

namespace Sys2Proof.Machine

/-- One byte added to a running 7-bit sum (R153). -/
def addMod128 (sum x : Byte) : Byte := BitVec.ofNat 8 ((sum.toNat + x.toNat) % 128)

theorem addMod128_toNat (sum x : Byte) : (addMod128 sum x).toNat = (sum.toNat + x.toNat) % 128 := by
  rw [addMod128, BitVec.toNat_ofNat]
  omega

theorem ck7_congr {xs ys : List Byte}
    (h : (xs.map BitVec.toNat).sum % 128 = (ys.map BitVec.toNat).sum % 128) : ck7 xs = ck7 ys :=
  BitVec.eq_of_toNat_eq (by rw [ck7_toNat, ck7_toNat, h])

theorem ck7_append_toNat (xs ys : List Byte) :
    (ck7 (xs ++ ys)).toNat = ((ck7 xs).toNat + (ck7 ys).toNat) % 128 := by
  rw [ck7_toNat, ck7_toNat, ck7_toNat, List.map_append, List.sum_append, Nat.add_mod]

theorem ck7_of_perm {xs ys : List Byte} (h : xs.Perm ys) : ck7 xs = ck7 ys :=
  ck7_congr (by rw [(h.map BitVec.toNat).sum_eq])

theorem ck7_append_singleton (xs : List Byte) (x : Byte) : ck7 (xs ++ [x]) = addMod128 (ck7 xs) x := by
  apply BitVec.eq_of_toNat_eq
  have hone : (ck7 [x]).toNat = x.toNat % 128 := ck7_toNat [x]
  rw [ck7_append_toNat, hone, addMod128_toNat, Nat.add_mod_mod]

/-- A running sum that has seen `ys` goes on to the checksum of all bytes. -/
theorem foldl_addMod128_ck7 (xs ys : List Byte) : xs.foldl addMod128 (ck7 ys) = ck7 (ys ++ xs) := by
  induction xs generalizing ys with
  | nil => rw [List.foldl_nil, List.append_nil]
  | cons x xs ih => rw [List.foldl_cons, ← ck7_append_singleton, ih, List.append_assoc, List.singleton_append]

theorem mask7_toNat (x : Byte) : (x &&& 0x7F).toNat = x.toNat % 128 := by
  rw [BitVec.toNat_and]
  exact Nat.and_two_pow_sub_one_eq_mod x.toNat 7

theorem ck7_map_mask7 (xs : List Byte) : ck7 (xs.map (· &&& 0x7F)) = ck7 xs := by
  have hmap : (xs.map (· &&& 0x7F)).map BitVec.toNat = (xs.map BitVec.toNat).map (· % 128) := by
    simp only [List.map_map, Function.comp_def, mask7_toNat]
  exact ck7_congr (by rw [hmap, ← List.sum_nat_mod])

theorem ck7_insert_zero (xs ys : List Byte) : ck7 (xs ++ 0x00 :: ys) = ck7 (xs ++ ys) :=
  ck7_congr (by simp)

end Sys2Proof.Machine
end

section
/-! The claims about the checksum (41_checksum.md). -/

open Sys2Proof Sys2Proof.Machine

/-- Settles O24: each law is one of sums modulo 128; the running sum starts from the checksum of no bytes. -/
theorem checksumLaws : Obligations.ChecksumLaws :=
  ⟨fun _ _ => ck7_of_perm, ck7_append_toNat, fun xs => foldl_addMod128_ck7 xs [], ck7_map_mask7, ck7_insert_zero⟩

/-- Settles O23: the byte answered is `ck7` of the data. -/
theorem checksumAnswersSum : Obligations.ChecksumAnswersSum :=
  fun data _ => ⟨ck7 data, ck7_toNat data, rfl⟩

end

section
/-! The order of the transport operations (10_state.md R41, R70; 42_config_commands.md R176): what a rate offered last
follows, and which moves offer. -/

namespace Sys2Proof.Machine

/-- What the rule says of a rate offered last carries it from the history before to the history after. -/
theorem baudFollowsFrame_concat {ops : List TxOp} {o : TxOp} (h : BaudFollowsFrame ops)
    (ho : ∀ r, o = .setBaud r → ∃ earlier f, ops = earlier ++ [.write f] ∧ f.b1 = 15 ∧ baudRateOfCode f.b2 = some r) :
    BaudFollowsFrame (ops ++ [o]) := by
  intro before r after hsplit
  obtain rfl | ⟨inner, last, rfl⟩ := List.eq_nil_or_concat after
  · obtain ⟨rfl, hlast⟩ := List.append_inj' hsplit rfl
    exact ho r (List.singleton_inj.mp hlast)
  · rw [List.concat_eq_append, ← List.cons_append, ← List.append_assoc] at hsplit
    exact h before r inner (List.append_inj' hsplit rfl).1

theorem baudFollowsFrame_concat_write {ops : List TxOp} (f : Frame) (h : BaudFollowsFrame ops) :
    BaudFollowsFrame (ops ++ [.write f]) := baudFollowsFrame_concat h fun _ => nofun

theorem pendingRate_eq_some_iff {op : Byte} {f : Frame} {r : Word32} :
    pendingRate op f = some r ↔ op = opSetBaudRate ∧ baudRateOfCode f.b2 = some r := by
  by_cases h : op = opSetBaudRate <;> simp [pendingRate, h]

/-- The frame that `SET_BAUD_RATE` offers names the rate to come (R176). -/
theorem pendingRate_of_baudCode {f : Frame} {r : Word32} (h : baudCode r = some f.b2) : pendingRate 0x23 f = some r :=
  pendingRate_eq_some_iff.mpr ⟨rfl, baudRateOfCode_of_baudCode h⟩

/-- `SET_BAUD_RATE` emits the code 15 alone (R100). -/
theorem code_of_mem_emitters_baudRate {c : Byte} (h : (opSetBaudRate, c) ∈ emitters) : c = 15 := by
  simpa [emitters] using h

/-- A legal wait for a frame that names a rate has that frame, of code 15, last in its history. -/
theorem offered_of_pendingRate {s : State} {op : Byte} {f : Frame} {r : Word32} (h : Legal s)
    (hp : s.phase = .waitWrite op f) (hr : pendingRate op f = some r) :
    ∃ earlier, s.offered = earlier ++ [.write f] ∧ f.b1 = 15 ∧ baudRateOfCode f.b2 = some r := by
  obtain ⟨hphase, -⟩ := h
  rw [legalPhase, hp] at hphase
  obtain ⟨-, -, hcode, -, hlast⟩ := hphase
  obtain ⟨rfl, hrate⟩ := pendingRate_eq_some_iff.mp hr
  obtain ⟨earlier, hoffered⟩ := List.getLast?_eq_some_iff.mp hlast
  exact ⟨earlier, hoffered, code_of_mem_emitters_baudRate hcode, hrate⟩

theorem move_baudFollowsFrame {s t : State} (hlegal : Legal s) (h : BaudFollowsFrame s.offered) (hm : Move s t) :
    BaudFollowsFrame t.offered := by
  cases hm with
  | reset hr => rwa [takeReset_offered]
  | receive q b rest e hb hd => exact h
  | offer q b rest op c d hb hf => exact baudFollowsFrame_concat_write _ h
  | answer q b rest i left response addr draws hb hd hl ha => exact h
  | wait => exact h
  | writeAnswered op f a rest hp hw =>
    obtain ⟨sub, he⟩ | he | ⟨r, -, hr, he⟩ := afterWrite_cases op f a (withWriteAnswer f a rest (clockReset s)) <;>
      rw [he]
    · exact h
    · exact h
    · obtain ⟨earlier, hlast⟩ := offered_of_pendingRate hlegal hp hr
      refine baudFollowsFrame_concat h fun r' hr' => ⟨earlier, f, ?_⟩
      obtain rfl := TxOp.setBaud.inj hr'
      exact hlast
  | baudAnswered r a rest hp hw => rwa [afterBaud_offered]
  | ended hp => exact h
  | take b rest n hr hp hn => exact h

end Sys2Proof.Machine
end

section
/-! A step of the wait for the transport (42_config_commands.md R170, R176): what it does when the transport does not answer,
and with each answer. -/

namespace Sys2Proof.Machine

section
variable {s : State} (hr : resetAsserted s = false)
include hr

theorem step_writeUnanswered {op : Byte} {f : Frame} (hp : s.phase = .waitWrite op f) (hw : s.writeAnswers = []) :
    step s = .next (clockReset s) := by
  rw [step_waitWrite hr hp, answerWrite_nil op f (s := clockReset s) hw]

theorem step_writeAnswered {op : Byte} {f : Frame} {a : WriteAnswer} {rest : List WriteAnswer}
    (hp : s.phase = .waitWrite op f) (hw : s.writeAnswers = a :: rest) :
    step s = .next (afterWrite op f a (withWriteAnswer f a rest (clockReset s))) := by
  rw [step_waitWrite hr hp, answerWrite_cons op f (s := clockReset s) hw]
  rfl

theorem step_baudUnanswered {r : Word32} (hp : s.phase = .waitBaud r) (hw : s.baudAnswers = []) :
    step s = .next (clockReset s) := by
  rw [step_waitBaud hr hp, answerBaud_nil r (s := clockReset s) hw]

theorem step_baudAnswered {r : Word32} {a : BaudAnswer} {rest : List BaudAnswer} (hp : s.phase = .waitBaud r)
    (hw : s.baudAnswers = a :: rest) : step s = .next (afterBaud a (withBaudAnswer r a rest (clockReset s))) := by
  rw [step_waitBaud hr hp, answerBaud_cons r (s := clockReset s) hw]
  rfl

end

/-- Every frame request but `SET_BAUD_RATE` concludes by the template of R170. -/
theorem writeConcludes_of_ne {op : Byte} (f : Frame) (h : op ≠ opSetBaudRate) : writeConcludes op f := by
  intro s hr hp
  refine ⟨step_writeUnanswered hr hp, fun sub reached rest hw => step_writeAnswered hr hp hw, fun rest hw => ?_⟩
  rw [step_writeAnswered hr hp hw, afterWrite_ok_none _ (pendingRate_of_ne f h)]
  rfl

/-- `SET_BAUD_RATE` concludes by the template of R176, for each rate of the table. -/
theorem baudConcludes_of_baudCode {a : Word32} {d : Byte} (h : baudCode a = some d) : baudConcludes d a := by
  refine ⟨fun s f hr hp hd => ?write, fun s hr hp => ?baud⟩
  case write =>
    subst hd
    refine ⟨step_writeUnanswered hr hp, fun sub reached rest hw => step_writeAnswered hr hp hw, fun rest hw => ?_⟩
    rw [step_writeAnswered hr hp hw, afterWrite_ok_some _ (pendingRate_of_baudCode h)]
    rfl
  case baud =>
    exact ⟨step_baudUnanswered hr hp, fun sub changed rest hw => step_baudAnswered hr hp hw,
      fun rest hw => step_baudAnswered hr hp hw⟩

end Sys2Proof.Machine
end

section
/-! What each frame request offers, its operand read as the rules read it (42_config_commands.md R174, R176;
43_motor_commands.md R200). -/

namespace Sys2Proof.Machine

theorem exec_eq_offering {i : Instr} {op c d : Byte} {s : State} (h : exec i s = .next (offerFrame op c d s)) :
    exec i s = .next (offering op c d s) := by
  rw [h, offerFrame_eq_offering]

/-- A request that offers the frame of `motor` offers that of the split-by-sign encoding (R200). -/
theorem offersMotorFrame_of_motor {i : Instr} {op fwd rev a : Byte}
    (h : ∀ s, exec i s = .next (offerFrame op (motor fwd rev (i8 a)).1 (motor fwd rev (i8 a)).2 s)) :
    offersMotorFrame i op fwd rev a.toInt := by
  have hle : a.toInt ≤ 127 := Int.lt_add_one_iff.mp (BitVec.toInt_lt (x := a))
  intro s
  obtain hpos | hneg := le_or_gt 0 a.toInt
  · have hmotor : motor fwd rev (i8 a) = (fwd, toByte a.toInt) := motor_forward fwd rev hpos hle
    have hexec := h s
    rw [hmotor] at hexec
    have hdata := toByte_toNat hpos (by omega)
    exact ⟨toByte a.toInt, fun _ => ⟨by omega, exec_eq_offering hexec⟩, fun hneg => by omega⟩
  · have hmotor : motor fwd rev (i8 a) = (rev, toByte (-(max (-127) a.toInt))) := motor_backward fwd rev hneg
    have hexec := h s
    rw [hmotor] at hexec
    exact ⟨_, fun hpos => by omega, fun _ => ⟨toByte_toNat (by omega) (by omega), exec_eq_offering hexec⟩⟩

theorem exec_setSerialTimeout_rejects {a : Word16} (s : State) (h : 12700 < a.toNat) :
    exec (.setSerialTimeout a) s = .next (raiseInvalidInput s) := if_pos (Int.ofNat_lt.mpr h)

theorem exec_setSerialTimeout_offers {a : Word16} (s : State) (h : a.toNat ≤ 12700) :
    exec (.setSerialTimeout a) s = .next (offerFrame 0x22 14 (timeoutData a) s) :=
  if_neg (Int.not_lt.mpr (Int.ofNat_le.mpr h))

/-- The data byte of an accepted timeout, in the rule's own quotient (R174). -/
theorem timeoutData_eq_tdiv {a : Word16} (h : a.toNat ≤ 12700) :
    ((timeoutData a).toNat : Int) =
      Int.tdiv (127 * (if 1 ≤ a.toNat ∧ a.toNat ≤ 99 then 100 else a.toNat)) 12700 := by
  rw [timeoutData_eq h, mul_comm]
  split <;> rfl

theorem baudCode_of_mem {a : Word32} {d : Byte} (h : (a, d) ∈ baudTable) : baudCode a = some d := by
  simp only [baudTable, List.mem_cons, Prod.mk.injEq, List.not_mem_nil, or_false] at h
  obtain ⟨rfl, rfl⟩ | ⟨rfl, rfl⟩ | ⟨rfl, rfl⟩ | ⟨rfl, rfl⟩ | ⟨rfl, rfl⟩ := h <;> rfl

theorem mem_offeredRates_of_baudCode {a : Word32} {d : Byte} (h : baudCode a = some d) : a ∈ offeredRates := by
  obtain ⟨-, rfl⟩ | ⟨-, rfl⟩ | ⟨-, rfl⟩ | ⟨-, rfl⟩ | ⟨-, rfl⟩ := baudCode_cases h <;> decide

theorem baudCode_eq_none {a : Word32} (h : a ∉ offeredRates) : baudCode a = none :=
  Option.eq_none_iff_forall_ne_some.mpr fun _ hd => h (mem_offeredRates_of_baudCode hd)

theorem exec_setBaudRate_offers {a : Word32} {d : Byte} (s : State) (h : baudCode a = some d) :
    exec (.setBaudRate a) s = .next (offerFrame 0x23 15 d s) := by
  rw [exec, execSetBaudRate, h]
  rfl

theorem exec_setBaudRate_rejects {a : Word32} (s : State) (h : baudCode a = none) :
    exec (.setBaudRate a) s = .next (raiseInvalidInput s) := by
  rw [exec, execSetBaudRate, h]

/-- From the wait for its frame: the state in which the transport has answered `Ok` to the frame and to the rate of
`SET_BAUD_RATE a`, and the response is not yet taken (R176). -/
def baudRateSet (a : Word32) (f : Frame) (wa : List WriteAnswer) (ba : List BaudAnswer) (s : State) : State :=
  respondOk [] (withBaudAnswer a .ok ba (offerBaud a (withWriteAnswer f .ok wa s)))

theorem reaches_baudRateSet {a : Word32} {f : Frame} {s : State} {wa : List WriteAnswer} {ba : List BaudAnswer}
    (h : baudCode a = some f.b2) (hp : s.phase = .waitWrite 0x23 f) (hr : s.resetLine = [])
    (hw : s.writeAnswers = .ok :: wa) (hb : s.baudAnswers = .ok :: ba) : reaches 2 s (baudRateSet a f wa ba s) := by
  have hframe : step s = .next (offerBaud a (withWriteAnswer f .ok wa s)) := by
    rw [step_writeAnswered (resetAsserted_of_nil hr) hp hw, clockReset_of_nil hr,
      afterWrite_ok_some _ (pendingRate_of_baudCode h)]
  have hrate : step (offerBaud a (withWriteAnswer f .ok wa s)) = .next (baudRateSet a f wa ba s) := by
    rw [step_baudAnswered (s := offerBaud a (withWriteAnswer f .ok wa s)) (resetAsserted_of_nil hr) rfl hb,
      clockReset_of_nil (s := offerBaud a (withWriteAnswer f .ok wa s)) hr]
    rfl
  exact (runSteps_succ 1 hframe).trans ((runSteps_one _).trans hrate)

end Sys2Proof.Machine
end

section
/-! The claims about the frame requests and `SET_ADDRESS` (42_config_commands.md, 43_motor_commands.md R200 to R204). -/

open Sys2Proof Sys2Proof.Machine

/-- Settles O45: of the moves only the answer `Ok` to a frame that names a rate offers a rate, and legality has that frame
last in the history. -/
theorem stepKeepsBaudAfterFrame : Obligations.StepKeepsBaudAfterFrame :=
  fun _ _ hlegal hfollows hstep => move_baudFollowsFrame hlegal hfollows (step_move hstep)

/-- Settles O14: each command offers the frame of `motor`, and none of the four opcodes is that of `SET_BAUD_RATE`. -/
theorem motorCommandsSplitBySign : Obligations.MotorCommandsSplitBySign := by
  have hopcodes : ∀ op ∈ [(0x10 : Byte), 0x11, 0x12, 0x13], op ≠ opSetBaudRate := by decide
  intro a
  exact ⟨offersMotorFrame_of_motor fun _ => rfl, offersMotorFrame_of_motor fun _ => rfl,
    offersMotorFrame_of_motor fun _ => rfl, offersMotorFrame_of_motor fun _ => rfl,
    fun op f hop => writeConcludes_of_ne f (hopcodes op hop)⟩

/-- Settles O16: the frame offered holds the operand itself. -/
theorem voltageCommandsWriteOperand : Obligations.VoltageCommandsWriteOperand := by
  have hopcodes : ∀ op ∈ [(0x20 : Byte), 0x21], op ≠ opSetBaudRate := by decide
  intro a s
  exact ⟨exec_eq_offering rfl, exec_eq_offering rfl, fun op f hop => writeConcludes_of_ne f (hopcodes op hop)⟩

/-- Settles O17, the data byte by `timeoutData_eq_tdiv`. -/
theorem serialTimeoutMapsMilliseconds : Obligations.SerialTimeoutMapsMilliseconds := by
  refine ⟨fun a s => ⟨exec_setSerialTimeout_rejects s, fun h => ?_⟩, fun f => writeConcludes_of_ne f (by decide)⟩
  exact ⟨timeoutData a, timeoutData_eq_tdiv h, exec_eq_offering (exec_setSerialTimeout_offers s h)⟩

/-- Settles O18: `127 m / 12700` is `m / 100`. -/
theorem timeoutDataInTenths : Obligations.TimeoutDataInTenths := by
  intro a h
  have hdata := timeoutData_eq h
  refine ⟨fun hzero => ?zero, fun hlow hhigh => ?rounded, fun hunit => ?tenths, ?bound⟩
  case zero =>
    apply BitVec.eq_of_toNat_eq
    rw [hdata, hzero]
    rfl
  case rounded =>
    apply BitVec.eq_of_toNat_eq
    rw [hdata, if_pos ⟨hlow, hhigh⟩]
    rfl
  case tenths =>
    rw [hdata, if_neg (by omega)]
    omega
  case bound =>
    rw [hdata]
    split <;> omega

/-- Settles O19: the five rates are those of `baudTable`, and `baudCode` has no code for another. -/
theorem baudRateFiveRates : Obligations.BaudRateFiveRates := by
  refine fun a => ⟨fun d hmem => ?_, fun hmem s => exec_setBaudRate_rejects s (baudCode_eq_none hmem)⟩
  have hcode : baudCode a = some d := baudCode_of_mem hmem
  exact ⟨fun s => exec_eq_offering (exec_setBaudRate_offers s hcode), baudConcludes_of_baudCode hcode⟩

/-- Settles O20, both data bytes by `linearData_eq`. -/
theorem rampingAndDeadbandMapLinearly : Obligations.RampingAndDeadbandMapLinearly := by
  have hopcodes : ∀ op ∈ [(0x24 : Byte), 0x25], op ≠ opSetBaudRate := by decide
  refine ⟨fun a s => ⟨?ramping, ?deadband⟩, fun op f hop => writeConcludes_of_ne f (hopcodes op hop)⟩
  case ramping =>
    have hdata := linearData_eq a (top := 80) (by decide)
    exact ⟨_, hdata.trans (by rw [mul_comm]), exec_eq_offering rfl⟩
  case deadband =>
    have hdata := linearData_eq a (top := 127) (by decide)
    exact ⟨_, hdata.trans (by rw [mul_comm]), exec_eq_offering rfl⟩

/-- Settles O22: five steps receive the request, two answer it, and two deliver the response. -/
theorem baudRateRunsWhole : Obligations.BaudRateRunsWhole := by
  intro a d s n rest wa ba hmem hp hr hport hn hw hb
  have hcode : baudCode a = some d := baudCode_of_mem hmem
  have hreceived : reaches 5 s (offering 0x23 15 d (withRequestBytes rest s)) :=
    (runSteps_encode (i := .setBaudRate a) rfl hp hr hport).trans
      (exec_eq_offering (exec_setBaudRate_offers _ hcode))
  have hanswered := reaches_baudRateSet (s := offering 0x23 15 d (withRequestBytes rest s)) hcode rfl hr hw hb
  have hdelivered := reaches_delivered (response := [0x00, 0x00]) (n := n) (List.cons_ne_nil _ _)
    (s := baudRateSet a (wireFrame s.addr 15 d) wa ba (offering 0x23 15 d (withRequestBytes rest s))) rfl hr hn
  have hoffered : s.offered ++ [.write (wireFrame s.addr 15 d)] ++ [.setBaud a] =
      s.offered ++ [.write (wireFrame s.addr 15 d), .setBaud a] := List.append_assoc _ _ _
  rw [← hoffered, hp]
  exact (runSteps_add 4 hreceived).trans ((runSteps_add 2 hanswered).trans hdelivered)

/-- Settles O12: the response `00 00`, from the state with the new `ADDR`. -/
theorem setAddressStoresOperand : Obligations.SetAddressStoresOperand := fun _ _ => rfl

end

section
/-! What the result of `motor` says of the motor value: the code is its sign, the data byte its clamped magnitude
(43_motor_commands.md R200, R205). -/

namespace Sys2Proof.Machine

theorem motor_data_toNat (fwd rev : Byte) {v : Int} (h : v ≤ 127) :
    (motor fwd rev v).2.toNat = (max (-127) v).natAbs := by
  obtain hpos | hneg := le_or_gt 0 v
  · have hdata := toByte_toNat hpos (by omega)
    rw [motor_forward fwd rev hpos h]
    change (toByte v).toNat = _
    omega
  · have hdata := toByte_toNat (z := -(max (-127) v)) (by omega) (by omega)
    rw [motor_backward fwd rev hneg]
    change (toByte (-(max (-127) v))).toNat = _
    omega

theorem motor_code_eq_fwd_iff {fwd rev : Byte} (hne : fwd ≠ rev) (v : Int) : (motor fwd rev v).1 = fwd ↔ 0 ≤ v := by
  unfold motor
  split
  case isTrue hpos => exact iff_of_true rfl hpos
  case isFalse hneg => exact iff_of_false hne.symm hneg

/-- Sign and magnitude together give back the value clamped from below. -/
theorem clamped_eq_of_motor_eq {fwd rev : Byte} (hne : fwd ≠ rev) {v w : Int} (hv : v ≤ 127) (hw : w ≤ 127)
    (h : motor fwd rev v = motor fwd rev w) : max (-127) v = max (-127) w := by
  have hsign : 0 ≤ v ↔ 0 ≤ w := by rw [← motor_code_eq_fwd_iff hne, ← motor_code_eq_fwd_iff hne, h]
  have hmagnitude : (max (-127) v).natAbs = (max (-127) w).natAbs := by
    rw [← motor_data_toNat fwd rev hv, ← motor_data_toNat fwd rev hw, h]
  omega

theorem motor_data_of_nonneg (fwd rev : Byte) {v : Byte} (h : 0 ≤ v.toInt) : (motor fwd rev v.toInt).2 = v := by
  rw [motor_forward fwd rev h (Int.le_of_lt_add_one BitVec.toInt_lt)]
  exact BitVec.ofInt_toInt

end Sys2Proof.Machine
end

section
/-! The claim about the motor encoding (43_motor_commands.md R205). -/

open Sys2Proof Sys2Proof.Machine

/-- Settles O15: two bytes with one result have one clamped value, so they are equal or both at the clamp. -/
theorem motorEncodingLaws : Obligations.MotorEncodingLaws := by
  intro fwd rev hne
  have hle (v : Byte) : v.toInt ≤ 127 := Int.le_of_lt_add_one BitVec.toInt_lt
  refine ⟨motor_data_le fwd rev, motor_forward fwd rev (by decide) (by decide), motor_backward fwd rev (by decide),
    motor_backward fwd rev (by decide), fun v w hvw hclamp heq => ?differ,
    fun v hpos => ⟨min_eq_right (hle v), motor_data_of_nonneg fwd rev hpos⟩⟩
  case differ =>
    have hclamped := clamped_eq_of_motor_eq hne (hle v) (hle w) heq
    exact hvw (BitVec.eq_of_toInt_eq (by omega))

end

section
/-! Which status running a request begins (60_exceptions.md R230): `INVALID_INPUT` for the operands of R233, `UNKNOWN` for an
unassigned opcode byte (R235), and for every other request a frame or `OK`; and that every step goes on (R240). -/

namespace Sys2Proof.Machine

/-! ### The status of a response -/

/-- A response with this status byte is about to be delivered (R95). -/
def beginsStatus (status : Byte) (t : State) : Prop := ∃ r, t.phase = .responding (status :: r)

theorem not_beginsStatus_respond {status : Byte} {st : Status} {sub : Byte} {payload : List Byte} {s : State}
    (h : status ≠ statusByte st) : ¬beginsStatus status (respond st sub payload s) :=
  fun ⟨_, hp⟩ => h (List.cons.inj (Phase.responding.inj hp)).1.symm

theorem not_beginsStatus_offerFrame {status op c d : Byte} {s : State} : ¬beginsStatus status (offerFrame op c d s) :=
  fun ⟨_, h⟩ => nomatch h

/-- The transport's answers give only the statuses `OK` and `TRANSPORT_ERROR` (R231, R232). -/
theorem step_waiting_status {s t : State} {status : Byte} {r : List Byte}
    (hwait : (∃ op f, s.phase = .waitWrite op f) ∨ ∃ rate, s.phase = .waitBaud rate) (h : step s = .next t)
    (hp : t.phase = .responding (status :: r)) : status = 0x00 ∨ status = 0x01 := by
  obtain hok | ⟨sub, herr⟩ := step_waiting_response hwait h hp
  · exact .inl (List.cons.inj hok).1
  · exact .inr (List.cons.inj herr).1

/-! ### The status of each request -/

/-- The request is neither refused (R233) nor unassigned (R235). -/
structure Accepted (i : Instr) : Prop where
  operands : ¬refusesOperands i
  opcode : ¬∃ op, i = .unassigned op

/-- What running the request `i` in `s` begins, with the requests that begin it (R230). -/
inductive Begins (i : Instr) (s : State) : Prop
  | invalidInput (hi : refusesOperands i) (h : exec i s = .next (raiseInvalidInput s))
  | unknown (op : Byte) (hi : i = .unassigned op) (h : exec i s = .next (raiseUnknown s))
  | frame (op c d : Byte) (hi : Accepted i) (h : exec i s = .next (offerFrame op c d s))
  | ok (payload : List Byte) (u : State) (hi : Accepted i) (h : exec i s = .next (respondOk payload u))

/-- The ends of the range of `RATIO_TO_VALUE` are the bit patterns of -1.0 and 1.0 (R130). -/
theorem ratioInRange_iff (a : Fp) :
    ratioInRange a = true ↔ fpLe (fpOfBits 0xBF800000) a = true ∧ fpLe a (fpOfBits 0x3F800000) = true := by
  have hlow : fpOfBits 0xBF800000 = .fin true fpOne := by decide +kernel
  have hhigh : fpOfBits 0x3F800000 = .fin false fpOne := by decide +kernel
  rw [hlow, hhigh, ratioInRange, Bool.and_eq_true]

theorem exists_baudCode {a : Word32} (h : a ∈ offeredRates) : ∃ d, baudCode a = some d := by
  have hrates : offeredRates = baudTable.map Prod.fst := rfl
  rw [hrates] at h
  obtain ⟨⟨r, d⟩, hmem, rfl⟩ := List.mem_map.mp h
  exact ⟨d, baudCode_of_mem hmem⟩

/-- Everything a request can begin: each operand check of the model is the one of R233. -/
theorem exec_begins (i : Instr) (s : State) : Begins i s := by
  cases i with
  | setAddress a => exact .ok [] _ ⟨id, nofun⟩ rfl
  | driveM1 a => exact .frame _ _ _ ⟨id, nofun⟩ rfl
  | driveM2 a => exact .frame _ _ _ ⟨id, nofun⟩ rfl
  | driveMixed a => exact .frame _ _ _ ⟨id, nofun⟩ rfl
  | turnMixed a => exact .frame _ _ _ ⟨id, nofun⟩ rfl
  | setMinVoltage a => exact .frame _ _ _ ⟨id, nofun⟩ rfl
  | setMaxVoltage a => exact .frame _ _ _ ⟨id, nofun⟩ rfl
  | setSerialTimeout a =>
    by_cases h : 12700 < a.toNat
    · exact .invalidInput h (exec_setSerialTimeout_rejects s h)
    · exact .frame _ _ _ ⟨h, nofun⟩ (exec_setSerialTimeout_offers s (Nat.le_of_not_lt h))
  | setBaudRate a =>
    by_cases hmem : a ∈ offeredRates
    · obtain ⟨d, hd⟩ := exists_baudCode hmem
      exact .frame _ _ _ ⟨not_not_intro hmem, nofun⟩ (exec_setBaudRate_offers s hd)
    · exact .invalidInput hmem (exec_setBaudRate_rejects s (baudCode_eq_none hmem))
  | setRamping a => exact .frame _ _ _ ⟨id, nofun⟩ rfl
  | setDeadband a => exact .frame _ _ _ ⟨id, nofun⟩ rfl
  | checksum data => exact .ok [ck7 data] s ⟨id, nofun⟩ rfl
  | mapRangeI fl fh tl th v =>
    by_cases hzero : fh.toInt = fl.toInt
    · exact .invalidInput (.inl hzero) (exec_mapRangeI_degenerate s hzero)
    · by_cases hfits : fitsI32 (mapZ fl.toInt fh.toInt tl.toInt th.toInt v.toInt) = true
      · exact .ok _ s ⟨not_or_intro hzero (not_not_intro ((fitsI32_iff _).1 hfits)), nofun⟩
          (exec_mapRangeI_fits s hzero hfits)
      · exact .invalidInput (.inr (mt (fitsI32_iff _).2 hfits)) (exec_mapRangeI_overflow s hzero hfits)
  | mapRangeF fl fh tl th v =>
    by_cases hzero : fpIsZero (fsub (fpOfBits fh) (fpOfBits fl)) = true
    · exact .invalidInput hzero (exec_mapRangeF_degenerate s hzero)
    · exact .ok _ _ ⟨hzero, nofun⟩ (exec_mapRangeF_maps s hzero)
  | ratioToValue a =>
    by_cases hrange : ratioInRange (fpOfBits a) = true
    · exact .ok _ s ⟨not_not_intro ((ratioInRange_iff _).1 hrange), nofun⟩ (exec_ratioToValue_inRange s hrange)
    · exact .invalidInput (mt (ratioInRange_iff _).2 hrange) (exec_ratioToValue_outOfRange s hrange)
  | valueToRatio a => exact .ok _ s ⟨id, nofun⟩ (exec_valueToRatio a s)
  | unassigned op => exact .unknown op rfl rfl

/-! ### The opcode byte of an unassigned request -/

theorem opcode_not_mem_assigned_iff {i : Instr} (hwf : i.wellFormed = true) :
    i.opcode ∉ assignedOpcodes ↔ ∃ op, i = .unassigned op := by
  cases i with
  | unassigned op => exact iff_of_true (of_decide_eq_true hwf) ⟨op, rfl⟩
  | _ => exact iff_of_false (not_not_intro (List.contains_iff_mem.mp rfl)) nofun

/-- Bytes that begin with no assigned opcode hold an unassigned request, and no others do (R85). -/
theorem decoded_unassigned_iff {q left : List Byte} {i : Instr} (h : decode q = .ok (i, left)) :
    (∃ op, q.head? = some op ∧ op ∉ assignedOpcodes) ↔ ∃ op, i = .unassigned op := by
  obtain ⟨hwf, rfl⟩ := encode_of_decode h
  have hhead : (encode i ++ left).head? = some i.opcode := rfl
  rw [← opcode_not_mem_assigned_iff hwf, hhead]
  exact ⟨fun ⟨_, hop, hnot⟩ => Option.some.inj hop ▸ hnot, fun hnot => ⟨_, rfl, hnot⟩⟩

/-! ### Every step goes on -/

theorem exec_next (i : Instr) (s : State) : ∃ t, exec i s = .next t := by
  cases exec_begins i s with
  | invalidInput hi h => exact ⟨_, h⟩
  | unknown op hi h => exact ⟨_, h⟩
  | frame op c d hi h => exact ⟨_, h⟩
  | ok payload u hi h => exact ⟨_, h⟩

theorem runRequest_next (q : List Byte) (s : State) : ∃ t, runRequest q s = .next t := by
  cases hd : decode q with
  | error e => exact ⟨_, runRequest_partial s hd⟩
  | ok p =>
    obtain ⟨t, ht⟩ := exec_next p.1 s
    exact ⟨t, (runRequest_complete s hd).trans ht⟩

theorem step_next (s : State) : ∃ t, step s = .next t := by
  cases hr : resetAsserted s with
  | true => exact ⟨_, step_reset hr⟩
  | false =>
    rw [step_running hr]
    cases ha : acceptByte (clockReset s) with
    | none => exact ⟨_, stepRunning_none ha⟩
    | some p =>
      rw [stepRunning_some ha]
      exact runRequest_next p.1 p.2

end Sys2Proof.Machine
end

section
/-! The claims about `INVALID_INPUT`, `UNKNOWN` and the machine's never stopping (60_exceptions.md R233, R235, R240). -/

open Sys2Proof Sys2Proof.Machine

/-- Settles O36, by what each request begins (`exec_begins`); after a wait only the transport's answer begins a response. -/
theorem invalidInputExactly : Obligations.InvalidInputExactly := by
  refine ⟨fun i s => ?begins, fun s t r hwait hstep hp => ?waited⟩
  case begins =>
    cases exec_begins i s with
    | invalidInput hi h => exact ⟨_, h, iff_of_true ⟨_, rfl⟩ hi, fun _ => rfl⟩
    | unknown op hi h =>
      subst hi
      exact ⟨_, h, iff_of_false (not_beginsStatus_respond (by decide)) id, False.elim⟩
    | frame op c d hi h =>
      exact ⟨_, h, iff_of_false not_beginsStatus_offerFrame hi.operands, fun hr => absurd hr hi.operands⟩
    | ok payload u hi h =>
      exact ⟨_, h, iff_of_false (not_beginsStatus_respond (by decide)) hi.operands, fun hr => absurd hr hi.operands⟩
  case waited => exact absurd (step_waiting_status hwait hstep hp) (by decide)

/-- Settles O37, by what each request begins (`exec_begins`) and the opcode byte it was decoded from
(`decoded_unassigned_iff`). -/
theorem unknownExactly : Obligations.UnknownExactly := by
  refine ⟨fun q left i s hd => ?begins, fun s t r hwait hstep hp => ?waited⟩
  case begins =>
    rw [decoded_unassigned_iff hd]
    cases exec_begins i s with
    | invalidInput hi h =>
      refine ⟨_, h, iff_of_false (not_beginsStatus_respond (by decide)) ?_⟩
      rintro ⟨op, rfl⟩
      exact hi
    | unknown op hi h => exact ⟨_, h, iff_of_true ⟨_, rfl⟩ ⟨op, hi⟩⟩
    | frame op c d hi h => exact ⟨_, h, iff_of_false not_beginsStatus_offerFrame hi.opcode⟩
    | ok payload u hi h => exact ⟨_, h, iff_of_false (not_beginsStatus_respond (by decide)) hi.opcode⟩
  case waited => exact absurd (step_waiting_status hwait hstep hp) (by decide)

/-- Settles O41: reset, the transport and the host always leave a state, and so does every request (`exec_next`). -/
theorem everyStepAnswersNext : Obligations.EveryStepAnswersNext := step_next

end

section
/-! Reset and the wait for the transport (70_reset_and_hazards.md R270 to R284): what reset leaves, what an operation in flight
can still do, and that an unanswered wait changes nothing. -/

namespace Sys2Proof.Machine

/-! ### Reset -/

@[simp] theorem takeReset_resetLine (s : State) : (takeReset s).resetLine = s.resetLine := by
  obtain ⟨_, _, _, _, h⟩ := abandonTransport_eq s
  rw [takeReset, h]

@[simp] theorem takeReset_nanDraws (s : State) : (takeReset s).nanDraws = s.nanDraws := by
  obtain ⟨_, _, _, _, h⟩ := abandonTransport_eq s
  rw [takeReset, h]

theorem resetAsserted_of_cons {s : State} {rest : List Bool} (h : s.resetLine = true :: rest) : resetAsserted s = true := by
  rw [resetAsserted, h]
  rfl

/-! ### The operation in flight -/

/-- However many first bytes of a frame: an answer says that these reached the line. The converse of `lineBytes_eq_take`. -/
theorem exists_lineBytes_eq_take (f : Frame) {k : Nat} (h : k ≤ 4) : ∃ a, lineBytes f a = f.bytes.take k :=
  ⟨.err 0 ⟨k, Nat.lt_succ_of_le h⟩, rfl⟩

/-- For the new rate and for the old one there is an answer that leaves it: the converse of `rateAfter_cases`. -/
theorem exists_rateAfter_eq {r old rate : Word32} (h : rate = r ∨ rate = old) : ∃ a, rateAfter r old a = rate := by
  obtain rfl | rfl := h
  · exact ⟨.ok, rfl⟩
  · exact ⟨.err 0 false, rfl⟩

section
variable {s : State} (hr : resetAsserted s = true)
include hr

/-- Reset while a frame is in flight: what the answer says of the line happens, and the block takes no notice (R271). -/
theorem step_reset_waitWrite {op : Byte} {f : Frame} {a : WriteAnswer} {rest : List WriteAnswer}
    (hp : s.phase = .waitWrite op f) (hw : s.writeAnswers = a :: rest) :
    ∃ t, step s = .next t ∧ t.line = s.line ++ lineBytes f a ∧ t.phase = .idle := by
  refine ⟨_, step_reset hr, ?_, rfl⟩
  rw [takeReset, abandonTransport_write_cons (s := clockReset s) hp hw]
  rfl

/-- Reset while a rate is in flight: what the answer says of the rate happens, and the block takes no notice (R271). -/
theorem step_reset_waitBaud {r : Word32} {a : BaudAnswer} {rest : List BaudAnswer} (hp : s.phase = .waitBaud r)
    (hw : s.baudAnswers = a :: rest) :
    ∃ t, step s = .next t ∧ t.lineRate = rateAfter r s.lineRate a ∧ t.phase = .idle := by
  refine ⟨_, step_reset hr, ?_, rfl⟩
  rw [takeReset, abandonTransport_baud_cons (s := clockReset s) hp hw]
  rfl

end

/-! ### The unanswered wait -/

/-- The block waits for the transport, which has no answer to give (R284). -/
def waitsUnanswered (s : State) : Prop :=
  (∃ op f, s.phase = .waitWrite op f ∧ s.writeAnswers = []) ∨ ∃ r, s.phase = .waitBaud r ∧ s.baudAnswers = []

theorem step_waitsUnanswered {s : State} (hwait : waitsUnanswered s) (hr : resetAsserted s = false) :
    step s = .next (clockReset s) := by
  obtain ⟨op, f, hp, hw⟩ | ⟨r, hp, hb⟩ := hwait
  · exact step_writeUnanswered hr hp hw
  · exact step_baudUnanswered hr hp hb

/-- A state that its step leaves as it is stays for any number of steps. -/
theorem reaches_self_of_step {s : State} (h : step s = .next s) (n : Nat) : reaches n s s := by
  induction n with
  | zero => rfl
  | succ n ih => exact (runSteps_succ n h).trans ih

end Sys2Proof.Machine
end

section
/-! The claims about waiting and reset (70_reset_and_hazards.md R270 to R272, R284). -/

open Sys2Proof Sys2Proof.Machine

/-- Settles O51: without reset the step of an unanswered wait moves nothing but the reset line's clock
(`step_waitsUnanswered`). -/
theorem unansweredTransportWaitsForReset : Obligations.UnansweredTransportWaitsForReset := by
  intro s hwait
  refine ⟨fun hnil => ?stays, fun hr => ⟨_, step_reset hr, takeReset_phase _⟩, fun t hstep hne => ?onlyReset⟩
  case stays =>
    have hstep := step_waitsUnanswered hwait (resetAsserted_of_nil hnil)
    rw [clockReset_of_nil hnil] at hstep
    exact reaches_self_of_step hstep
  case onlyReset =>
    by_contra hr
    obtain rfl := Host.Outcome.next.inj (hstep.symm.trans (step_waitsUnanswered hwait (Bool.eq_false_of_not_eq_true hr)))
    exact hne (clockReset_phase s)

/-- Settles O52, field by field: of the ports only the line and the rate can change, and those by what was in flight
(`takeReset_line`, `takeReset_lineRate`). -/
theorem resetFromAnyState : Obligations.ResetFromAnyState :=
  fun _ hr => ⟨_, step_reset hr, takeReset_addr _, takeReset_phase _, takeReset_offered _, takeReset_taken _,
    takeReset_reqPort _, takeReset_hostReady _, takeReset_nanDraws _, takeReset_line _, takeReset_lineRate _⟩

/-- Settles O53: for each outcome the transport's answer that has it. -/
theorem resetAdmitsEveryOutcome : Obligations.ResetAdmitsEveryOutcome := by
  refine ⟨fun s op f k hr hp hk => ?line, fun s r rate hr hp hrate => ?rate⟩
  case line =>
    obtain ⟨a, ha⟩ := exists_lineBytes_eq_take f hk
    rw [← ha]
    exact ⟨[a], step_reset_waitWrite (s := { s with writeAnswers := [a] }) hr hp rfl⟩
  case rate =>
    obtain ⟨a, rfl⟩ := exists_rateAfter_eq hrate
    exact ⟨[a], step_reset_waitBaud (s := { s with baudAnswers := [a] }) hr hp rfl⟩

/-- Settles O54: reset leaves the block `Idle` with the byte still presented, so the next step accepts it as the first byte
of a request. -/
theorem firstByteAfterResetIsOpcode : Obligations.FirstByteAfterResetIsOpcode := by
  intro s b rest hline hport
  refine ⟨_, step_reset (resetAsserted_of_cons hline), rfl, ?_⟩
  generalize ht : takeReset (clockReset s) = t
  have hidle : t.phase = .idle := by rw [← ht, takeReset_phase]
  have hnil : t.resetLine = [] := by rw [← ht, takeReset_resetLine, clockReset_resetLine, hline, List.tail_cons]
  have hpresented : t.reqPort = b :: rest := by rw [← ht, takeReset_reqPort, clockReset_reqPort, hport]
  have haccepts : Accepts t [] b rest := ⟨congrArg acceptedBytes hidle, hpresented⟩
  have hstep := step_accepts (resetAsserted_of_nil hnil) haccepts
  rw [clockReset_of_nil hnil] at hstep
  exact ⟨fun i hd => hstep.trans (runRequest_complete _ hd), fun e hd => hstep.trans (runRequest_partial _ hd)⟩

end

section
/-! The request of a table word (30_encoding.md R80, R87): its bytes are as many as R87 says, so the decoder reads all of them,
and a block that has all but the last one runs it next. -/

namespace Sys2Proof

/-- A request takes the bytes R87 says, the count of a CHECKSUM being the one it begins with. -/
theorem requestTakes_requestLength {op : Byte} {q : List Byte} {n : Word16}
    (hcount : op = opChecksum → Machine.bytes16 n <+: q) :
    Machine.requestTakes (requestLength op n.toNat) op q := by
  obtain ⟨hformats, -⟩ := requestLengthFromOpcode
  obtain ⟨takes2, takes3, takes5, takes21, takes1⟩ := hformats op q
  unfold requestLength
  split_ifs with hword16 hword32 hfive hchecksum hassigned
  · exact takes3 (List.mem_singleton.mp hword16)
  · exact takes5 hword32
  · exact takes21 hfive
  · obtain rfl := List.mem_singleton.mp hchecksum
    obtain ⟨data, rfl⟩ := hcount rfl
    exact requestTakes_rqv (mk := .checksum) rfl
  · have hbyte : op ∈ [0x01, 0x10, 0x11, 0x12, 0x13, 0x20, 0x21, 0x24, 0x25] := by
      simp only [List.mem_cons, List.not_mem_nil, or_false, not_or] at hword16 hword32 hfive hchecksum ⊢
      simpa only [assignedOpcodes, List.mem_cons, List.not_mem_nil, hword16, hword32, hfive, hchecksum, or_false,
        false_or] using hassigned
    exact takes2 hbyte
  · exact takes1 hassigned

/-- As many bytes as R87 says are a whole request, with nothing left over. -/
theorem decode_of_requestLength {op : Byte} {q : List Byte} {n : Word16}
    (hcount : op = opChecksum → Machine.bytes16 n <+: q) (hlen : q.length + 1 = requestLength op n.toNat) :
    ∃ i, decode (op :: q) = .ok (i, []) := by
  have htakes := requestTakes_requestLength hcount
  rw [← hlen, Machine.requestTakes, if_neg (Nat.lt_irrefl _), Nat.add_sub_cancel, List.drop_length] at htakes
  exact htakes

theorem requestLength_checksum (n : Nat) : requestLength opChecksum n = n + 2 + 1 :=
  Nat.add_comm 3 n

theorem requestLength_pos (op : Byte) (n : Nat) : 0 < requestLength op n := by
  unfold requestLength
  split_ifs <;> omega

/-- The bytes of a table word: an opcode byte and operand bytes, as many as R87 says for the count that a CHECKSUM has in its
first two operand bytes. -/
theorem tableRequest_eq (nbits w : Nat) : ∃ (op : Byte) (q : List Byte) (n : Word16), tableRequest nbits w = op :: q ∧
    q.length + 1 = requestLength op n.toNat ∧ (op = opChecksum → Machine.bytes16 n <+: q) := by
  unfold tableRequest
  generalize w % 2 ^ nbits = v
  generalize hn : Machine.le16 (byteOfNumber v 1) (byteOfNumber v 2) = n
  obtain ⟨m, hm⟩ := Nat.exists_eq_add_one.mpr (requestLength_pos (byteOfNumber v 0) n.toNat)
  refine ⟨byteOfNumber v 0, (List.range m).map fun k => byteOfNumber v (k + 1), n, ?bytes, ?length, fun hop => ?count⟩
  case bytes =>
    simp only [hn, hm, List.range_succ_eq_map, List.map_cons, List.map_map]
    rfl
  case length => rw [List.length_map, List.length_range, hm]
  case count =>
    rw [hop, requestLength_checksum] at hm
    obtain rfl := Nat.succ.inj hm
    rw [← hn, Machine.bytes16_le16]
    simp only [List.range_succ_eq_map, List.map_cons]
    exact ⟨_, rfl⟩

/-- The decoder reads a whole request from the bytes of every table word. -/
theorem exists_decode_tableRequest (nbits w : Nat) : ∃ i, decode (tableRequest nbits w) = .ok (i, []) := by
  obtain ⟨op, q, n, heq, hlen, hcount⟩ := tableRequest_eq nbits w
  rw [heq]
  exact decode_of_requestLength hcount hlen

theorem decodeTableWord_of_decode {nbits w : Nat} {i : Instr} {rest : List Byte}
    (h : decode (tableRequest nbits w) = .ok (i, rest)) : decodeTableWord nbits w = some i := by
  rw [decodeTableWord, h]

theorem tableRequest_ne_nil (nbits w : Nat) : tableRequest nbits w ≠ [] := by
  obtain ⟨op, q, n, heq, -⟩ := tableRequest_eq nbits w
  exact heq ▸ List.cons_ne_nil op q

end Sys2Proof

namespace Sys2Proof.Machine

/-- The step from `withFetchWord` accepts the last byte of the table word's request, so it has all of them. -/
theorem step_withFetchWord (s : State) (nbits w : Nat) : step (s.withFetchWord nbits w) =
    runRequest (tableRequest nbits w) { s with phase := receivingPhase (tableRequest nbits w).dropLast } := by
  have hlast : (tableRequest nbits w).dropLast ++ [(tableRequest nbits w).getLastD 0] = tableRequest nbits w := by
    rw [List.getLastD_eq_getLast?, List.getLast?_eq_getLast_of_ne_nil (tableRequest_ne_nil nbits w)]
    exact List.dropLast_append_getLast _
  have haccepts : Accepts (s.withFetchWord nbits w) (tableRequest nbits w).dropLast
      ((tableRequest nbits w).getLastD 0) s.reqPort := ⟨acceptedBytes_receivingPhase _, rfl⟩
  rw [step_accepts rfl haccepts, hlast]
  rfl

end Sys2Proof.Machine
end

section
/-! The claim about the words of the opcode table (30_encoding.md R80). -/

open Sys2Proof Sys2Proof.Machine

/-- Settles O9: the bytes of the word are a whole request (`exists_decode_tableRequest`), and the step has all of them
(`step_withFetchWord`); running it does not depend on the phase they were accepted in. -/
theorem tableWordRunsNext : Obligations.TableWordRunsNext := by
  intro s nbits w
  obtain ⟨i, hdecode⟩ := exists_decode_tableRequest nbits w
  obtain ⟨hwf, -⟩ := encode_of_decode hdecode
  refine ⟨i, decodeTableWord_of_decode hdecode, hwf, ?_⟩
  rw [step_withFetchWord, runRequest_complete _ hdecode, exec_withPhase]

end
